-- ==== Sys2Proof/Word.lean ====
section
/-! DEFINITION. The bit vectors the spec names (00_scope.md section 5, rules R3 and R5): the 32-bit port
word, the 288 cells of the register, the 80-bit key and IV. -/

namespace Sys2Proof

/-- A word of the register port: 32 bits, bit 0 the least significant (00_scope.md section 5, R5). -/
abbrev Word := BitVec 32

/-- The cipher state `S`: 288 cells (R20).  Cell `i` is bit `i` counted from the most significant end, so
that the hexadecimal value of `S` is STATE0 .. STATE8 written one after the other (R67).  93_implementation_defined.md
I6 leaves the representation to the model. -/
abbrev Cells := BitVec 288

/-- An 80-bit key or IV (R25, R26, R66): bit `i` counted from the most significant end, so that the
hexadecimal value is the 20-digit string. -/
abbrev Bits80 := BitVec 80

end Sys2Proof
end

