-- ==== Sys2Proof/Syntax.lean ====
section
/-! DEFINITION. The commands of the core (30_encoding.md R94, spec/opcode_table.json), as an assembler writes
them (R98). -/

namespace Sys2Proof

/-- A command: one constructor per row of spec/opcode_table.json.  The operands are the numbers of R93: lengths are
unsigned, the bit count is signed. -/
inductive Instr where
  /-- `INIT klen, ivlen` (R91, R150). -/
  | init (klen ivlen : Nat)
  /-- `GEN n` (R92, R180). -/
  | gen (n : Int)
  /-- `XOR n` (R92, R183). -/
  | xor (n : Int)
  /-- `INV n` (R92, R210). -/
  | inv (n : Int)
  deriving DecidableEq, Repr

end Sys2Proof
end

