-- ==== Sys2Proof/WellFormed.lean ====
section
/-! DEFINITION. Which commands have a word: every operand lies in its field's range (30_encoding.md R98; outside
it is an assembly error and no word is produced). -/

namespace Sys2Proof

/-- KLEN and IVLEN hold 0..255 (R91, R98). -/
abbrev lengthFits (k : Nat) : Prop := k ≤ 255

/-- N holds -128..127 (R92, R98). -/
abbrev countFits (n : Int) : Prop := -128 ≤ n ∧ n ≤ 127

/-- Every operand is in the range of its field (R98). -/
def Instr.wellFormed : Instr → Bool
  | .init klen ivlen => decide (lengthFits klen ∧ lengthFits ivlen)
  | .gen n => decide (countFits n)
  | .xor n => decide (countFits n)
  | .inv n => decide (countFits n)

end Sys2Proof
end

