-- ==== Sys2Proof/Decode.lean ====
section
/-! DEFINITION. The decoder of a command word (30_encoding.md R90 to R97), then the encoder (R98). -/

namespace Sys2Proof

/-- Why a word is an illegal command. -/
inductive Illegal where
  /-- OPC is 0x0 or 0x5..0xF (R94, R96). -/
  | reservedOpcode
  /-- OPC is 0x1..0x4 and a reserved bit is 1 (R95). -/
  | reservedBits
  deriving DecidableEq, Repr

/-- What the decoder answers: a command, or a rejection by name. -/
inductive Decoded where
  | instr (i : Instr)
  | illegal (why : Illegal)
  deriving DecidableEq, Repr

/-! ### Fields (R90 to R93) -/

/-- `OPC = v[3:0]` (R90). -/
def opcField (v : Word) : BitVec 4 := v.extractLsb' 0 4

/-- The reserved field `v[7:4]` of both formats (R91, R92). -/
def reservedLow (v : Word) : BitVec 4 := v.extractLsb' 4 4

/-- `klen = v[15:8]`, unsigned (R93). -/
def klenField (v : Word) : Nat := (v.extractLsb' 8 8).toNat

/-- `ivlen = v[23:16]`, unsigned (R93). -/
def ivlenField (v : Word) : Nat := (v.extractLsb' 16 8).toNat

/-- `n = sint(v[15:8])`, two's complement (R93). -/
def countField (v : Word) : Int := (v.extractLsb' 8 8).toInt

/-- The reserved bits of format I are 0: `v[7:4]` and `v[31:24]` (R95). -/
def formatIClear (v : Word) : Bool := reservedLow v == 0#4 && v.extractLsb' 24 8 == 0#8

/-- The reserved bits of format N are 0: `v[7:4]` and `v[31:16]` (R95). -/
def formatNClear (v : Word) : Bool := reservedLow v == 0#4 && v.extractLsb' 16 16 == 0#16

/-- A command if the format's reserved bits are 0, else the rejection of R95. -/
def ifClear (clear : Bool) (i : Instr) : Decoded :=
  if clear then .instr i else .illegal .reservedBits

/-- The decoder: total on words, every word that is not one of the four patterns of R94 rejected by name. -/
def decode (v : Word) : Decoded :=
  if opcField v = 0x1#4 then ifClear (formatIClear v) (.init (klenField v) (ivlenField v))
  else if opcField v = 0x2#4 then ifClear (formatNClear v) (.gen (countField v))
  else if opcField v = 0x3#4 then ifClear (formatNClear v) (.xor (countField v))
  else if opcField v = 0x4#4 then ifClear (formatNClear v) (.inv (countField v))
  else .illegal .reservedOpcode

/-- The command a word decodes to, where it decodes. -/
def Decoded.toOption : Decoded → Option Instr
  | .instr i => some i
  | .illegal _ => none

/-- The command word whose bits are `w`, numbered as spec/opcode_table.json numbers them; the bits from `nbits` on are 0.
A command is one 32-bit word (R90), so this is the word the host writes to CMD. -/
def tableWord (nbits w : Nat) : Word := BitVec.ofNat 32 (w % 2 ^ nbits)

/-- The decoder on a word numbered as spec/opcode_table.json numbers it. -/
def decodeTableWord (nbits w : Nat) : Option Instr := (decode (tableWord nbits w)).toOption

/-! ### The encoder (R98) -/

/-- A word of format I: `(ivlen << 16) | (klen << 8) | 0x1` (R91, R98). -/
def encodeI (klen ivlen : Nat) : Word :=
  0#8 ++ BitVec.ofNat 8 ivlen ++ BitVec.ofNat 8 klen ++ 0#4 ++ 0x1#4

/-- A word of format N: `((n & 0xFF) << 8) | opc` (R92, R98). -/
def encodeN (opc : BitVec 4) (n : Int) : Word :=
  0#16 ++ BitVec.ofInt 8 n ++ 0#4 ++ opc

/-- The word of a well-formed command (R98). -/
def encode : Instr → Word
  | .init klen ivlen => encodeI klen ivlen
  | .gen n => encodeN 0x2#4 n
  | .xor n => encodeN 0x3#4 n
  | .inv n => encodeN 0x4#4 n

/-- The assembler: no word is produced for an operand outside its field's range (R98). -/
def assemble (i : Instr) : Option Word :=
  if i.wellFormed then some (encode i) else none

end Sys2Proof
end

