-- ==== Sys2Proof/Config.lean ====
section
/-! DEFINITION. What a build of the core fixes (00_scope.md section 4, R3 to R6), and the values the spec
leaves open, as constants without a body. -/

namespace Sys2Proof

/-- The one parameter of a build: `WARMUP_CLOCKS`, the lower-case `warmup` of R6 (92_eei_decisions.md D28). -/
structure Config where
  /-- The number of warm-up clocks: any number in a test build, 1152 on conforming hardware (R4, R6). -/
  warmup : Nat
  deriving DecidableEq, Repr

/-- Conforming hardware: `WARMUP_CLOCKS = 1152` (R4, R6). -/
def Config.conforming : Config := ⟨1152⟩

/-- `PORT_WORDS` (R5, R60). -/
def Config.portWords : Nat := 32

/-- `N_MAX`, the most bits one command moves (R5). -/
def Config.nMax : Nat := 32

/-- `KEY_BITS` (R3). -/
def Config.keyBits : Nat := 80

/-- `IV_BITS` (R3). -/
def Config.ivBits : Nat := 80

/-- FREE VALUE (notes/assumptions/3.md).  How many sequencer steps fall before the next host step, for the
k-th such count that is drawn: R71 and the row "sequencer interleaving" of 92_eei_decisions.md leave it open. -/
opaque Config.seqSteps : Nat → Nat

/-- FREE VALUE (notes/assumptions/7.md).  PARAM[15:0] of a test build whose warm-up count does not fit in 16 bits:
R32 gives that field the count and states no value for such a build. -/
opaque Config.wideParam : Nat → BitVec 16

end Sys2Proof
end

