-- ==== Sys2Proof/Machine/State.lean ====
section
/-! DEFINITION. The machine's state as plain data: the record of 10_state.md R40, the build's parameter (R6), and what
the model holds of the agents outside the core (60_exceptions.md R250): the accesses the host has still to make, the
values it has read, the reset input, and whose turn the next step is. -/

namespace Sys2Proof.Machine

/-- `PHASE` (R28).  The value 3 is never held and has no constructor (93_implementation_defined.md X5). -/
inductive Phase where
  /-- 0: no engine. -/
  | empty
  /-- 1: warm-up in progress. -/
  | setup
  /-- 2: warm-up complete. -/
  | ready
  deriving DecidableEq, Repr

/-- The codes `ERR` holds (60_exceptions.md R230).  6..15 are never written and have no constructor (X6). -/
inductive ErrCode where
  /-- 0 NONE: the last command succeeded. -/
  | none
  /-- 1 INVALID_LENGTH. -/
  | invalidLength
  /-- 2 INVALID_REQUEST. -/
  | invalidRequest
  /-- 3 NO_ENGINE. -/
  | noEngine
  /-- 4 BUSY. -/
  | busy
  /-- 5 ILLEGAL_COMMAND. -/
  | illegalCommand
  deriving DecidableEq, Repr

/-- One step of the world outside the core: an access of the host to the register port (20_memory.md R60) or a change of
the reset input (70_reset_and_hazards.md R260). -/
inductive HostOp where
  /-- `MemRead(off, width)`. -/
  | memRead (off width : Nat)
  /-- `MemWrite(off, width, v)`. -/
  | memWrite (off width : Nat) (v : Word)
  /-- Reset is applied (R260). -/
  | applyReset
  /-- Reset is released (R271). -/
  | releaseReset
  deriving DecidableEq, Repr

/-- Everything the spec gives one core, and the model's own fields for the agents around it. -/
structure State where
  /-- The build's parameter (R6).  No step changes it. -/
  config : Config
  /-- `S`, the 288 cells (R20). -/
  cells : Cells
  /-- `PHASE` (R28). -/
  phase : Phase
  /-- `WCNT`, warm-up clocks done since the last successful INIT (R29). -/
  wcnt : Nat
  /-- `KEY` (R25). -/
  key : Bits80
  /-- `IV` (R26). -/
  iv : Bits80
  /-- `KS_DATA` (R30). -/
  ksData : Word
  /-- `KS_COUNT`, a 6-bit field holding 0..32 (R30). -/
  ksCount : BitVec 6
  /-- `DATA_IN` (R31). -/
  dataIn : Word
  /-- `DATA_OUT` (R31). -/
  dataOut : Word
  /-- `ERR` (R34). -/
  err : ErrCode
  /-- MODEL'S OWN: the host steps still to come, in the host's order (R36, R71). -/
  host : List HostOp
  /-- MODEL'S OWN: the values the host has read, oldest first (R270). -/
  reads : List Word
  /-- MODEL'S OWN: the reset input is applied (R260). -/
  resetHeld : Bool
  /-- MODEL'S OWN: how many sequencer steps still come before the next host step; `none` while not drawn (R71). -/
  gap : Option Nat
  /-- MODEL'S OWN: how many such counts have been drawn (notes/assumptions/3.md). -/
  draws : Nat
  deriving DecidableEq, Repr

/-- Why the machine stops with a fault. -/
inductive Fault where
  /-- Raised by a host access whose offset lies outside 0x00..0x7C: R60 gives the port no such word.  Safe: the model
  stops where the port has no address to express the access. -/
  | outsidePort (off : Nat)
  deriving DecidableEq, Repr

/-- Why the machine gives a request no meaning. -/
inductive Refusal where
  /-- Raised by an arm of `exec` whose command has no meaning yet.  Safe: nothing is claimed of it. -/
  | notModelled (mnemonic : String)
  /-- Raised by a host access that is not a 4-byte access at a multiple of 4: R62 has a model refuse it.  As a stop it
  is safe; 93_implementation_defined.md M1 makes it a duty of the host (notes/assumptions/5.md). -/
  | notWordAccess (off width : Nat)
  /-- Raised by a host access while reset is applied: R260 has a model refuse it.  As a stop it is safe; M2 makes it
  a duty of the host (notes/assumptions/6.md). -/
  | accessDuringReset
  deriving DecidableEq, Repr

/-- The machine right after reset (R40, R260), on conforming hardware, with reset released and no host step pending
(notes/assumptions/1.md, 2.md, 6.md). -/
def State.reset : State where
  config := .conforming
  cells := 0
  phase := .empty
  wcnt := 0
  key := 0
  iv := 0
  ksData := 0
  ksCount := 0
  dataIn := 0
  dataOut := 0
  err := .none
  host := []
  reads := []
  resetHeld := false
  gap := none
  draws := 0

end Sys2Proof.Machine
end

