-- ==== Sys2Proof/Machine/Flags.lean ====
section
/-! DEFINITION. The status fields.  The core has no condition codes or arithmetic flags (10_state.md R37): its only
flags are the fields of STATUS (R33), assembled here, with the codes of PHASE (R28) and ERR (60_exceptions.md R230),
and the constant PARAM (R32). -/

namespace Sys2Proof.Machine

/-- The value of `PHASE` (R28). -/
def phaseCode : Phase → BitVec 2
  | .empty => 0
  | .setup => 1
  | .ready => 2

/-- The value of `ERR` (R230). -/
def errCode : ErrCode → BitVec 4
  | .none => 0
  | .invalidLength => 1
  | .invalidRequest => 2
  | .noEngine => 3
  | .busy => 4
  | .illegalCommand => 5

/-- STATUS.BUSY: 1 when PHASE = SETUP (R33). -/
def busyFlag (s : State) : Bool := s.phase == .setup

/-- STATUS: [31:14] 0, KS_COUNT, ERR, bit 3 0, BUSY, PHASE (R33). -/
def statusWord (s : State) : Word :=
  0#18 ++ s.ksCount ++ errCode s.err ++ 0#1 ++ BitVec.ofBool (busyFlag s) ++ phaseCode s.phase

/-- PARAM[15:0]: WARMUP_CLOCKS (R32); a count that does not fit in the field leaves a free value (notes/assumptions/7.md). -/
def paramField (c : Config) : BitVec 16 :=
  if c.warmup < 2 ^ 16 then BitVec.ofNat 16 c.warmup else Config.wideParam c.warmup

/-- PARAM: [31:16] 0 (R32). -/
def paramWord (c : Config) : Word := 0#16 ++ paramField c

end Sys2Proof.Machine
end

