-- ==== Sys2Proof/Machine/Clocks.lean ====
section
/-! DEFINITION. The register clock functions (40_register_clocks.md R120 to R133): pure functions of the 288 cells.
Every read is of the state given and the whole state is returned (R120). -/

namespace Sys2Proof.Machine

/-- `S[i]`, cell `i` (00_scope.md section 5). -/
def cell (S : Cells) (i : Nat) : Bool := S.getMsbD i

/-- The `len` cells `S[a..a+len)` in index order (00_scope.md section 5). -/
def cellsFrom (S : Cells) (a len : Nat) : BitVec len := S.extractLsb' (288 - a - len) len

/-! ### The forward clock (R121) -/

/-- `t1` of R121, which enters B at cell 93 (90_conflicts.md C1). -/
def tap1 (S : Cells) : Bool := cell S 65 ^^ (cell S 90 && cell S 91) ^^ cell S 92 ^^ cell S 170

/-- `t2` of R121, which enters C at cell 177. -/
def tap2 (S : Cells) : Bool := cell S 161 ^^ (cell S 174 && cell S 175) ^^ cell S 176 ^^ cell S 263

/-- `t3` of R121, which enters A at cell 0. -/
def tap3 (S : Cells) : Bool := cell S 242 ^^ (cell S 285 && cell S 286) ^^ cell S 287 ^^ cell S 68

/-- The rotate-and-insert update `[t3] ++ S[0..92) ++ [t1] ++ S[93..176) ++ [t2] ++ S[177..287)` (R121, R123). -/
def insertTaps (t1 t2 t3 : Bool) (S : Cells) : Cells :=
  BitVec.ofBool t3 ++ cellsFrom S 0 92 ++ (BitVec.ofBool t1 ++ cellsFrom S 93 83)
    ++ (BitVec.ofBool t2 ++ cellsFrom S 177 110)

/-- `Fwd`, the forward (warm-up) clock (R121). -/
def fwd (S : Cells) : Cells := insertTaps (tap1 S) (tap2 S) (tap3 S) S

/-! ### The keystream clock (R123) -/

/-- `Z`, the output bit of a keystream clock (R125). -/
def outBit (S : Cells) : Bool :=
  cell S 65 ^^ cell S 92 ^^ cell S 161 ^^ cell S 176 ^^ cell S 242 ^^ cell S 287

/-- `Ks`, the keystream clock: the output bit and the new state, by the two-stage formulas of R123. -/
def ks (S : Cells) : Bool × Cells :=
  let t1 := cell S 65 ^^ cell S 92
  let t2 := cell S 161 ^^ cell S 176
  let t3 := cell S 242 ^^ cell S 287
  let z := t1 ^^ t2 ^^ t3
  let t1 := t1 ^^ (cell S 90 && cell S 91) ^^ cell S 170
  let t2 := t2 ^^ (cell S 174 && cell S 175) ^^ cell S 263
  let t3 := t3 ^^ (cell S 285 && cell S 286) ^^ cell S 68
  (z, insertTaps t1 t2 t3 S)

/-- `KsRun(S, n)`: the output bits of `n` keystream clocks, first bit first, and the final state (R130). -/
def ksRun : Nat → Cells → List Bool × Cells
  | 0, S => ([], S)
  | n + 1, S =>
    let (z, S1) := ks S
    let (L, S2) := ksRun n S1
    (z :: L, S2)

/-! ### The inverse clock (R126) -/

/-- The recovered cell 92 (R126). -/
def recover92 (S : Cells) : Bool := cell S 93 ^^ cell S 66 ^^ (cell S 91 && cell S 92) ^^ cell S 171

/-- The recovered cell 176 (R126). -/
def recover176 (S : Cells) : Bool := cell S 177 ^^ cell S 162 ^^ (cell S 175 && cell S 176) ^^ cell S 264

/-- The recovered cell 287 (R126). -/
def recover287 (S : Cells) : Bool := cell S 0 ^^ cell S 243 ^^ (cell S 286 && cell S 287) ^^ cell S 69

/-- `Inv`, the inverse clock (R126). -/
def invClock (S : Cells) : Cells :=
  cellsFrom S 1 92 ++ BitVec.ofBool (recover92 S) ++ (cellsFrom S 94 83 ++ BitVec.ofBool (recover176 S))
    ++ (cellsFrom S 178 110 ++ BitVec.ofBool (recover287 S))

/-- The loop of INV (R210): `n` inverse clocks, after each the output bit of the state it gave, latest undone clock
first, and the final state. -/
def invRun : Nat → Cells → List Bool × Cells
  | 0, S => ([], S)
  | n + 1, S =>
    let S1 := invClock S
    let (L, S2) := invRun n S1
    (outBit S1 :: L, S2)

/-! ### Loading (R131) -/

/-- `Load(k, v)`: key bits at cells 0..79, IV bits at 93..172, cells 285..287 set, every other cell 0 (R131). -/
def load (k v : Bits80) : Cells := k ++ 0#13 ++ v ++ 0#112 ++ 0b111#3

end Sys2Proof.Machine
end

