-- ==== Sys2Proof/Machine/Operands.lean ====
section
/-! DEFINITION. Operand forms: bit lists and words (20_memory.md R65), the words of KEY, IV and the state window
(10_state.md R25, R26; 20_memory.md R67), and the operand checks (R151, R180). -/

namespace Sys2Proof.Machine

/-! ### Bit lists and words (R65) -/

/-- `pack32(L)`: the first bit at bit 31, unused bits 0 (R65). -/
def pack32 : List Bool → Word
  | [] => 0
  | b :: L => BitVec.ofBool b ++ (pack32 L).extractLsb' 1 31

/-- `unpack32(w, n)`: the first `n` bits of `w` from bit 31 down (R65). -/
def unpack32 (w : Word) : Nat → List Bool
  | 0 => []
  | n + 1 => w.getMsbD 0 :: unpack32 (w <<< 1) n

/-- `M(n)`: bits 31 .. 32-n set and the others clear (R183). -/
def topMask (n : Nat) : Word := BitVec.allOnes 32 <<< (32 - n)

/-- Byte `b` (first byte 0) of a keystream word: `w[31-8b : 24-8b]` (R68). -/
def streamByte (w : Word) (b : Nat) : BitVec 8 := w.extractLsb' (24 - 8 * b) 8

/-! ### Words of an 80-bit staging register (R25, R26) -/

/-- `key_bit(i)` and `iv_bit(i)`: bit 0 is the first bit of the hex string (R25, R66). -/
def stagedBit (r : Bits80) (i : Nat) : Bool := r.getMsbD i

/-- Word 0: bits 0..31. -/
def stagedWord0 (r : Bits80) : Word := r.extractLsb' 48 32

/-- Word 1: bits 32..63. -/
def stagedWord1 (r : Bits80) : Word := r.extractLsb' 16 32

/-- Word 2: bits 64..79 in [15:0], reserved [31:16] reading 0. -/
def stagedWord2 (r : Bits80) : Word := 0#16 ++ r.extractLsb' 0 16

/-- Writing word 0. -/
def setStaged0 (v : Word) (r : Bits80) : Bits80 := v ++ r.extractLsb' 0 48

/-- Writing word 1. -/
def setStaged1 (v : Word) (r : Bits80) : Bits80 := r.extractLsb' 48 32 ++ v ++ r.extractLsb' 0 16

/-- Writing word 2: [15:0] stored, the written [31:16] discarded (R64). -/
def setStaged2 (v : Word) (r : Bits80) : Bits80 := r.extractLsb' 16 64 ++ v.extractLsb' 0 16

/-! ### The state window (R67) -/

/-- STATE`k`: cells 32k .. 32k+31, first cell at bit 31 (R67). -/
def stateWord (S : Cells) (k : Nat) : Word := cellsFrom S (32 * k) 32

/-! ### Operand checks -/

/-- `klen = 80` and `ivlen = 80` (R151). -/
abbrev lengthsOk (klen ivlen : Nat) : Prop := klen = Config.keyBits ∧ ivlen = Config.ivBits

/-- `0 <= n <= 32` (R180, R183, R210). -/
abbrev countOk (n : Int) : Prop := 0 ≤ n ∧ n ≤ (Config.nMax : Int)

end Sys2Proof.Machine
end

