-- ==== Sys2Proof/Machine/Ops.lean ====
section
/-! DEFINITION. The named operations over the state that more than one meaning or step uses: raising a command error
(60_exceptions.md R231), the phase and operand checks in their order (R233), reset (70_reset_and_hazards.md R260), and the
host's and sequencer's turns (20_memory.md R71).  An error is the only exception the core has, and nothing returns from
it (R234, R235). -/

namespace Sys2Proof.Machine

/-- What every meaning answers. -/
abbrev Result := Host.Outcome State Fault Refusal

/-- `raise CmdError(code)`: ERR takes the code and nothing else changes (R231). -/
def raiseError (e : ErrCode) (s : State) : State := { s with err := e }

/-- Every command: BUSY in SETUP, before anything else is looked at (R96, R233). -/
def unlessBusy (s : State) (go : Result) : Result :=
  if s.phase = .setup then .next (raiseError .busy s) else go

/-- GEN, XOR and INV: BUSY, then NO_ENGINE, then INVALID_REQUEST, else the command on its count (R96, R180, R233). -/
def engineCommand (n : Int) (s : State) (go : Nat → State) : Result :=
  unlessBusy s <|
    if s.phase = .empty then .next (raiseError .noEngine s)
    else if countOk n then .next (go n.toNat)
    else .next (raiseError .invalidRequest s)

/-- A word that decodes to no command: BUSY in SETUP, else ILLEGAL_COMMAND (R96). -/
def illegalCommand (s : State) : Result := unlessBusy s (.next (raiseError .illegalCommand s))

/-- A successful GEN, XOR or INV records its bits, its new state and its success (R180, R183, R210). -/
def recordBits (run : List Bool × Cells) (n : Nat) (s : State) : State :=
  { s with cells := run.2, ksData := pack32 run.1, ksCount := BitVec.ofNat 6 n, err := .none }

/-- The reset values of every register of the core (R40, R260).  The build's parameter and the world outside stay. -/
def resetRegisters (s : State) : State :=
  { s with cells := 0, phase := .empty, wcnt := 0, key := 0, iv := 0, ksData := 0, ksCount := 0,
           dataIn := 0, dataOut := 0, err := .none }

/-! ### Turns (R71, R250) -/

/-- How many sequencer steps come before the next host step: drawn already, or the next free value. -/
def gapDue (s : State) : Nat :=
  match s.gap with
  | some k => k
  | none => Config.seqSteps s.draws

/-- The draw counter after `gapDue` has been used: a new count has been drawn if there was none. -/
def drawsAfter (s : State) : Nat :=
  match s.gap with
  | some _ => s.draws
  | none => s.draws + 1

/-- The sequencer moves before the waiting host: it is enabled (R153) and its share of the gap is not used up. -/
def sequencerFirst (s : State) : Bool := s.phase == .setup && gapDue s != 0

/-- One sequencer step of the gap is used. -/
def useGap (s : State) : State := { s with gap := some (gapDue s - 1), draws := drawsAfter s }

/-- The host's turn: its next step is taken off, the gap after it is open again. -/
def takeHostOp (rest : List HostOp) (s : State) : State :=
  { s with host := rest, gap := none,
           draws := if s.phase = .setup then drawsAfter s else s.draws }

/-- The command word placed as the host's next step, with the host's turn next and reset released. -/
def placeCommand (v : Word) (s : State) : State :=
  { s with host := .memWrite 0 4 v :: s.host, gap := some 0, resetHeld := false }

end Sys2Proof.Machine
end

