-- ==== Sys2Proof/Machine/Inverse.lean ====
section
/-! DEFINITION. The inverse clock command (43_inverse.md). -/

namespace Sys2Proof.Machine

/-- `INV n` (R210). -/
def execInv (n : Int) (s : State) : Result :=
  engineCommand n s fun m => recordBits (invRun m s.cells) m s

end Sys2Proof.Machine
end

