-- ==== Sys2Proof/Machine/Keystream.lean ====
section
/-! DEFINITION. Keystream generation and XOR (42_keystream.md). -/

namespace Sys2Proof.Machine

/-- `GEN n` (R180). -/
def execGen (n : Int) (s : State) : Result :=
  engineCommand n s fun m => recordBits (ksRun m s.cells) m s

/-- DATA_OUT of `XOR n`: the first `n` bits of DATA_IN with the `n` keystream bits, packed (R183). -/
def xorData (m : Nat) (s : State) : Word :=
  pack32 (List.zipWith Bool.xor (unpack32 s.dataIn m) (ksRun m s.cells).1)

/-- `XOR n` (R183). -/
def execXor (n : Int) (s : State) : Result :=
  engineCommand n s fun m =>
    { recordBits (ksRun m s.cells) m s with dataOut := xorData m s }

end Sys2Proof.Machine
end

