-- ==== Sys2Proof/Machine/Setup.lean ====
section
/-! DEFINITION. Key/IV setup and the warm-up sequencer (41_setup.md). -/

namespace Sys2Proof.Machine

/-- The load step of a successful INIT (R150, R152; R155 where WARMUP_CLOCKS = 0). -/
def loadEngine (s : State) : State :=
  { s with
    cells := load s.key s.iv
    ksData := 0
    ksCount := 0
    dataOut := 0
    wcnt := 0
    phase := if s.config.warmup = 0 then .ready else .setup
    err := .none }

/-- `INIT klen, ivlen` (R150, R151). -/
def execInit (klen ivlen : Nat) (s : State) : Result :=
  unlessBusy s <|
    if lengthsOk klen ivlen then .next (loadEngine s) else .next (raiseError .invalidLength s)

/-- `SeqStep`, one warm-up clock (R153, R154). -/
def seqStep (s : State) : State :=
  { s with
    cells := fwd s.cells
    wcnt := s.wcnt + 1
    phase := if s.wcnt + 1 = s.config.warmup then .ready else s.phase }

end Sys2Proof.Machine
end

