-- ==== Sys2Proof/Machine/Dispatch.lean ====
section
/-! DEFINITION. One arm per command (30_encoding.md R94). -/

namespace Sys2Proof.Machine

def exec (i : Instr) (s : State) : Host.Outcome State Fault Refusal :=
  match i with
  | .init klen ivlen => Sys2Proof.Machine.execInit klen ivlen s
  | .gen n => Sys2Proof.Machine.execGen n s
  | .xor n => Sys2Proof.Machine.execXor n s
  | .inv n => Sys2Proof.Machine.execInv n s

end Sys2Proof.Machine
end

