-- ==== Sys2Proof/Machine/Port.lean ====
section
/-! DEFINITION. The register port (20_memory.md R60 to R69), the steps of the host (60_exceptions.md R250) and the
choice between host and sequencer (20_memory.md R71). -/

namespace Sys2Proof.Machine

/-- The words of the register map (R61). -/
inductive PortReg where
  | cmd | status | param
  | key0 | key1 | key2
  | iv0 | iv1 | iv2
  | ksData | dataIn | dataOut
  /-- STATE0 .. STATE8. -/
  | window (k : Nat)
  | reserved
  deriving DecidableEq, Repr

/-- The register map: the register at word index `w` (R61). -/
def regAt (w : Nat) : PortReg :=
  match w with
  | 0 => .cmd
  | 1 => .status
  | 2 => .param
  | 4 => .key0
  | 5 => .key1
  | 6 => .key2
  | 8 => .iv0
  | 9 => .iv1
  | 10 => .iv2
  | 12 => .ksData
  | 13 => .dataIn
  | 14 => .dataOut
  | w => if 16 ≤ w ∧ w ≤ 24 then .window (w - 16) else .reserved

/-- What a read of a register returns (R61, R63, R64). -/
def readReg (r : PortReg) (s : State) : Word :=
  match r with
  | .cmd => 0
  | .status => statusWord s
  | .param => paramWord s.config
  | .key0 => stagedWord0 s.key
  | .key1 => stagedWord1 s.key
  | .key2 => stagedWord2 s.key
  | .iv0 => stagedWord0 s.iv
  | .iv1 => stagedWord1 s.iv
  | .iv2 => stagedWord2 s.iv
  | .ksData => s.ksData
  | .dataIn => s.dataIn
  | .dataOut => s.dataOut
  | .window k => stateWord s.cells k
  | .reserved => 0

/-- A write to CMD: the dispatch of R96. -/
def writeCmd (v : Word) (s : State) : Result :=
  match decode v with
  | .instr i => exec i s
  | .illegal _ => illegalCommand s

/-- What a write to a register does; read-only and reserved words ignore it (R61, R63, R64, R69). -/
def writeReg (r : PortReg) (v : Word) (s : State) : Result :=
  match r with
  | .cmd => writeCmd v s
  | .key0 => .next { s with key := setStaged0 v s.key }
  | .key1 => .next { s with key := setStaged1 v s.key }
  | .key2 => .next { s with key := setStaged2 v s.key }
  | .iv0 => .next { s with iv := setStaged0 v s.iv }
  | .iv1 => .next { s with iv := setStaged1 v s.iv }
  | .iv2 => .next { s with iv := setStaged2 v s.iv }
  | .dataIn => .next { s with dataIn := v }
  | .status | .param | .ksData | .dataOut | .window _ | .reserved => .next s

/-- A read: the value goes to the host and nothing else changes (R69). -/
def readAccess (r : PortReg) (s : State) : State := { s with reads := s.reads ++ [readReg r s] }

/-- Which accesses the port admits: none while reset is applied (R260), only 4 bytes at a multiple of 4 (R62), only
offsets 0x00..0x7C (R60). -/
def admitAccess (off width : Nat) (s : State) (go : PortReg → Result) : Result :=
  if s.resetHeld then .refused .accessDuringReset
  else if width ≠ 4 ∨ off % 4 ≠ 0 then .refused (.notWordAccess off width)
  else if Config.portWords ≤ off / 4 then .fault (.outsidePort off)
  else go (regAt (off / 4))

/-- One step of the host or of the reset input (R250, R260, R271). -/
def hostStep (op : HostOp) (s : State) : Result :=
  match op with
  | .memRead off width => admitAccess off width s fun r => .next (readAccess r s)
  | .memWrite off width v => admitAccess off width s fun r => writeReg r v s
  | .applyReset => .next { resetRegisters s with resetHeld := true }
  | .releaseReset => .next { s with resetHeld := false }

/-- One step of the world (R250): the sequencer, if it is enabled and the gap before the next host step is not used up
or no host step waits; else the host's next step; else nothing moves. -/
def agentStep (s : State) : Result :=
  match s.host with
  | [] => if s.phase = .setup then .next (seqStep s) else .next s
  | op :: rest =>
    if sequencerFirst s then .next (seqStep (useGap s)) else hostStep op (takeHostOp rest s)

end Sys2Proof.Machine
end

