-- ==== Sys2Proof/Machine/Step.lean ====
section
/-! DEFINITION. The step function, and a command placed as the next one to run. -/

namespace Sys2Proof.Machine

/-- One step of the machine: one step of one agent (60_exceptions.md R250). -/
def step (s : State) : Host.Outcome State Fault Refusal := agentStep s

/-- `s` with the word as the host's very next access, a write to CMD (notes/assumptions/2.md). -/
def State.withFetchWord (s : State) (nbits w : Nat) : State := placeCommand (tableWord nbits w) s

end Sys2Proof.Machine
end

