-- ==== Sys2Proof/Machine/HostProgram.lean ====
section
/-! DEFINITION. The pseudo-instructions of host programs (30_encoding.md R99), each as the port accesses it stands for.
They are host software: the core sees only the accesses. -/

namespace Sys2Proof.Machine

/-- `off(REG)`: the byte offset of a named register (R61, R99); the window's word `k` is STATE`k`, and a reserved word has
no name. -/
def portOffset : PortReg → Option Nat
  | .cmd => some 0x00
  | .status => some 0x04
  | .param => some 0x08
  | .key0 => some 0x10
  | .key1 => some 0x14
  | .key2 => some 0x18
  | .iv0 => some 0x20
  | .iv1 => some 0x24
  | .iv2 => some 0x28
  | .ksData => some 0x30
  | .dataIn => some 0x34
  | .dataOut => some 0x38
  | .window k => if k ≤ 8 then some (0x40 + 4 * k) else none
  | .reserved => none

/-- `WR REG, imm` (R99). -/
def wr (r : PortReg) (v : Word) : Option HostOp := (portOffset r).map fun off => .memWrite off 4 v

/-- `RD REG` (R99). -/
def rd (r : PortReg) : Option HostOp := (portOffset r).map fun off => .memRead off 4

/-- `CMD <command>`: the write of its word to CMD; an operand outside its field produces no word (R98, R99). -/
def cmdLine (i : Instr) : Option HostOp := (assemble i).bind (wr .cmd)

/-- The 80 bits of a string of hex digits, first digit most significant; only 20 digits give a value (R66,
93_implementation_defined.md I4). -/
def hexBits (digits : List (BitVec 4)) : Option Bits80 :=
  if digits.length = 20 then some (digits.foldl (fun r d => r <<< 4 ||| d.setWidth 80) 0) else none

/-- The three writes of `SETKEY` for the key bits `r` (R66, R99). -/
def keyWrites (r : Bits80) : List HostOp :=
  [.memWrite 0x10 4 (stagedWord0 r), .memWrite 0x14 4 (stagedWord1 r), .memWrite 0x18 4 (stagedWord2 r)]

/-- The three writes of `SETIV` for the IV bits `r` (R66, R99). -/
def ivWrites (r : Bits80) : List HostOp :=
  [.memWrite 0x20 4 (stagedWord0 r), .memWrite 0x24 4 (stagedWord1 r), .memWrite 0x28 4 (stagedWord2 r)]

/-- `SETKEY h0..h19` (R99). -/
def setKey (digits : List (BitVec 4)) : Option (List HostOp) := (hexBits digits).map keyWrites

/-- `SETIV h0..h19` (R99). -/
def setIv (digits : List (BitVec 4)) : Option (List HostOp) := (hexBits digits).map ivWrites

/-- `WAITRDY` in a run where it reads STATUS `n` times (R99).  How many reads that is follows from the run: the number
is the host program's, and every number is one (notes/assumptions/2.md). -/
def waitReady (n : Nat) : List HostOp := List.replicate n (.memRead 0x04 4)

/-- The values `WAITRDY` read: STATUS[2] = 1 in every one but the last, and 0 in the last (R99). -/
def endsReady : List Word → Bool
  | [] => false
  | [w] => !w.getLsbD 2
  | w :: ws => w.getLsbD 2 && endsReady ws

end Sys2Proof.Machine
end

