-- ==== Sys2Proof/Safety.lean ====
section
/-! DEFINITION. What counts as a safe run: the invariant every step keeps, what a legal STATUS value is, and the duties of the
host under which no step stops (93_implementation_defined.md X5 to X7, M1, M2; 70_reset_and_hazards.md R271). -/

namespace Sys2Proof.Machine

/-! ### The invariant -/

/-- In SETUP warm-up clocks are still to come (R29, R154). -/
abbrev WarmupUnfinished (s : State) : Prop := s.phase = .setup → s.wcnt < s.config.warmup

/-- KS_COUNT is at most 32 and the bits of KS_DATA below the valid ones are 0 (R30, X7). -/
abbrev OutputFits (s : State) : Prop := s.ksCount.toNat ≤ 32 ∧ s.ksData &&& ~~~topMask s.ksCount.toNat = 0

/-- No output of an engine stands before the engine is ready (R152, R260). -/
abbrev NoOutputUntilReady (s : State) : Prop :=
  s.phase ≠ .ready → s.ksData = 0 ∧ s.ksCount = 0 ∧ s.dataOut = 0

/-- The register is all zero exactly when there is no engine (R28, R132, R260). -/
abbrev EngineIsNonzero (s : State) : Prop := s.phase = .empty ↔ s.cells = 0

/-- The errors each phase can show (R230, R232). -/
abbrev ErrFitsPhase (s : State) : Prop :=
  (s.phase = .empty → s.err ≠ .busy ∧ s.err ≠ .invalidRequest) ∧
  (s.phase = .setup → s.err = .none ∨ s.err = .busy) ∧
  (s.phase = .ready → s.err ≠ .noEngine)

/-- While reset is applied every register holds its reset value (R260). -/
abbrev ResetHoldsRegisters (s : State) : Prop := s.resetHeld = true → resetRegisters s = s

/-- The invariant of the core. -/
abbrev State.Inv (s : State) : Prop :=
  WarmupUnfinished s ∧ OutputFits s ∧ NoOutputUntilReady s ∧ EngineIsNonzero s ∧ ErrFitsPhase s
    ∧ ResetHoldsRegisters s

/-! ### A legal STATUS value (R33, X4 to X7) -/

/-- PHASE is not 3, BUSY agrees with it, ERR is at most 5, KS_COUNT is at most 32 and the reserved bits are 0. -/
def legalStatus (w : Word) : Bool :=
  w.extractLsb' 0 2 != 3#2 && (w.getLsbD 2 == (w.extractLsb' 0 2 == 1#2)) && !w.getLsbD 3
    && decide ((w.extractLsb' 4 4).toNat ≤ 5) && decide ((w.extractLsb' 8 6).toNat ≤ 32)
    && w.extractLsb' 14 18 == 0#18

/-! ### The host's duties (M1, M2, R271) -/

/-- A 4-byte access at a multiple of 4 inside the port (R60, R62). -/
def wordAccess (off width : Nat) : Bool := width == 4 && off % 4 == 0 && decide (off / 4 < Config.portWords)

/-- The host steps keep the duties, given whether reset is applied before them. -/
def dutiful : Bool → List HostOp → Bool
  | _, [] => true
  | held, .memRead off width :: rest => !held && wordAccess off width && dutiful held rest
  | held, .memWrite off width _ :: rest => !held && wordAccess off width && dutiful held rest
  | _, .applyReset :: rest => dutiful true rest
  | _, .releaseReset :: rest => dutiful false rest

/-- The host steps still to come keep the host's duties. -/
abbrev State.dutifulHost (s : State) : Prop := dutiful s.resetHeld s.host = true

end Sys2Proof.Machine
end

