-- ==== Sys2Proof/Certificates/Slice0/Obligations.lean ====
section
/-! DEFINITION. The statements about the model, each from the rules of spec/ that its docstring names. -/

open Sys2Proof Sys2Proof.Machine

namespace Sys2Proof.Machine

/-- The next step is the host step `op`: it waits first and the sequencer does not go before it (R71). -/
abbrev HostTurn (s : State) (op : HostOp) (rest : List HostOp) : Prop :=
  s.host = op :: rest ∧ sequencerFirst s = false

/-- The host step `op` was the one taken from `s`. -/
abbrev HostTook (s : State) (op : HostOp) : Prop := ∃ rest, HostTurn s op rest

/-- Port word `w` writes the staged bits `lo .. lo+len-1` with the word's bits from `top` down, through `get` and
`put`, and reads them there; its other bits read 0 (R25, R26). -/
def StagedAt (get : State → Bits80) (put : Bits80 → State → State) (w lo len top : Nat) : Prop :=
  ∀ (s : State) (v : Word),
    (∀ j, j < len → (readReg (regAt w) s).getLsbD (top - j) = stagedBit (get s) (lo + j)) ∧
    (∀ i, top < i → (readReg (regAt w) s).getLsbD i = false) ∧
    ∃ r, writeReg (regAt w) v s = .next (put r s) ∧
      ∀ i, i < 80 → stagedBit r i =
        if lo ≤ i ∧ i < lo + len then v.getLsbD (top - (i - lo)) else stagedBit (get s) i

/-- The error a write of a word to CMD reports, in the order of R233; `none` when the command succeeds. -/
def reportedError (d : Decoded) (p : Phase) : ErrCode :=
  match p, d with
  | .setup, _ => .busy
  | _, .illegal _ => .illegalCommand
  | _, .instr (.init klen ivlen) => if klen = 80 ∧ ivlen = 80 then .none else .invalidLength
  | .empty, .instr _ => .noEngine
  | .ready, .instr (.gen n) => if 0 ≤ n ∧ n ≤ 32 then .none else .invalidRequest
  | .ready, .instr (.xor n) => if 0 ≤ n ∧ n ≤ 32 then .none else .invalidRequest
  | .ready, .instr (.inv n) => if 0 ≤ n ∧ n ≤ 32 then .none else .invalidRequest

/-- A word holds `n` bits, bit `j` at position 31-j, and 0 below them (R65). -/
def HoldsBits (w : Word) (n : Nat) (bit : Nat → Bool) : Prop :=
  (∀ j, j < n → w.getLsbD (31 - j) = bit j) ∧ ∀ k, k < 32 - n → w.getLsbD k = false

/-- The host loop of R182: `k` commands GEN 32 and one GEN `r`, the bits of each command in order. -/
def genLoop : Nat → Nat → State → Option (List Bool × State)
  | 0, r, s =>
    match exec (.gen r) s with
    | .next t => some (unpack32 t.ksData r, t)
    | _ => none
  | k + 1, r, s =>
    match exec (.gen 32) s with
    | .next t =>
      match genLoop k r t with
      | some (L, u) => some (unpack32 t.ksData 32 ++ L, u)
      | none => none
    | _ => none

/-- From `s`, with `r` warm-up clocks to come, `k` of them lead to `t`, where it is the turn of the waiting `op`; nothing
else of the core, and none of the host's steps, has changed (R71, R153). -/
def WarmsBeforeHost (k r : Nat) (op : HostOp) (rest : List HostOp) (s t : State) : Prop :=
  t = { s with cells := fwd^[k] s.cells, wcnt := s.wcnt + k, phase := if k = r then .ready else .setup,
               gap := t.gap, draws := t.draws } ∧ HostTurn t op rest

/-- `u` is reached from `t` in `n` steps, and PHASE was SETUP before each of them. -/
def AfterInit (n : Nat) (t u : State) : Prop :=
  Sys2Proof.core.run n t = .next u ∧
    ∀ (j : Nat) (w : State), j < n → Sys2Proof.core.run j t = .next w → w.phase = .setup

end Sys2Proof.Machine

/-! ### 10_state.md and 20_memory.md -/

/-- The register map of R61, and the offset of every named register (R99). -/
def Obligations.RegisterMapIsTheTable : Prop :=
  (List.range 16).map regAt =
    [.cmd, .status, .param, .reserved, .key0, .key1, .key2, .reserved, .iv0, .iv1, .iv2, .reserved,
      .ksData, .dataIn, .dataOut, .reserved] ∧
  (∀ k, k ≤ 8 → regAt (16 + k) = .window k) ∧ (∀ w, 25 ≤ w → regAt w = .reserved) ∧
  (∀ w, w < 32 → regAt w ≠ .reserved → portOffset (regAt w) = some (4 * w)) ∧
  ∀ (r : PortReg) (off : Nat), portOffset r = some off → off % 4 = 0 ∧ regAt (off / 4) = r

/-- A port access is one step: a read gives the host the register's value and changes no register of the core; a write does what
the written register does (R60, R69, R70). -/
def Obligations.PortAccessIsOneStep : Prop :=
  ∀ (s : State) (rest : List HostOp) (w : Nat), w < 32 → s.resetHeld = false →
    (HostTurn s (.memRead (4 * w) 4) rest →
      step s = .next { takeHostOp rest s with reads := s.reads ++ [readReg (regAt w) s] }) ∧
    ∀ v, HostTurn s (.memWrite (4 * w) 4 v) rest → step s = writeReg (regAt w) v (takeHostOp rest s)

/-- A request the port cannot express is refused, in every phase (R62, M1; notes/assumptions/5.md). -/
def Obligations.NonWordAccessIsRefused : Prop :=
  ∀ (s : State) (rest : List HostOp) (off width : Nat) (v : Word), s.resetHeld = false →
    (width ≠ 4 ∨ off % 4 ≠ 0) →
    (HostTurn s (.memRead off width) rest → step s = .refused (.notWordAccess off width)) ∧
    (HostTurn s (.memWrite off width v) rest → step s = .refused (.notWordAccess off width))

/-- A word access beyond offset 0x7C stops with a fault: the model's choice (notes/assumptions/4.md), since R60 gives the
port no such word. -/
def Obligations.AccessOutsidePortFaults : Prop :=
  ∀ (s : State) (rest : List HostOp) (off : Nat) (v : Word), s.resetHeld = false →
    off % 4 = 0 → 0x7C < off →
    (HostTurn s (.memRead off 4) rest → step s = .fault (.outsidePort off)) ∧
    (HostTurn s (.memWrite off 4 v) rest → step s = .fault (.outsidePort off))

/-- A reserved word reads 0 and a write to it does nothing, and neither access has any other effect (R63). -/
def Obligations.ReservedWordsReadZeroIgnoreWrites : Prop :=
  ∀ (s : State) (rest : List HostOp) (w : Nat), w = 3 ∨ w = 7 ∨ w = 11 ∨ w = 15 ∨ (25 ≤ w ∧ w ≤ 31) →
    s.resetHeld = false →
    (HostTurn s (.memRead (4 * w) 4) rest →
      step s = .next { takeHostOp rest s with reads := s.reads ++ [0] }) ∧
    ∀ v, HostTurn s (.memWrite (4 * w) 4 v) rest → step s = .next (takeHostOp rest s)

/-- Writes to read-only registers do nothing; CMD reads 0; a read/write register reads the last value written to its stored
bits, which only a write of its own word or reset changes, and 0 after reset (R64); a write to DATA_IN changes only
DATA_IN (R69; for KEY and IV see StagingRegistersHoldTheirBits). -/
def Obligations.ReadOnlyAndStoredBits : Prop :=
  (∀ (s t : State) (v : Word),
    (∀ w, w = 1 ∨ w = 2 ∨ w = 12 ∨ w = 14 ∨ (16 ≤ w ∧ w ≤ 24) → writeReg (regAt w) v s = .next s) ∧
    readReg (regAt 0) s = 0 ∧
    (∀ w, w = 4 ∨ w = 5 ∨ w = 8 ∨ w = 9 ∨ w = 13 →
      writeReg (regAt w) v s = .next t → readReg (regAt w) t = v) ∧
    (∀ w, w = 6 ∨ w = 10 →
      writeReg (regAt w) v s = .next t → readReg (regAt w) t = v &&& 0x0000FFFF#32) ∧
    writeReg (regAt 13) v s = .next { s with dataIn := v }) ∧
  ∀ w, w = 4 ∨ w = 5 ∨ w = 6 ∨ w = 8 ∨ w = 9 ∨ w = 10 ∨ w = 13 →
    readReg (regAt w) State.reset = 0 ∧
    ∀ s t : State, step s = .next t → readReg (regAt w) t ≠ readReg (regAt w) s →
      (HostTook s .applyReset ∧ readReg (regAt w) t = 0) ∨ ∃ v, HostTook s (.memWrite (4 * w) 4 v)

/-- KEY and IV in their three words, in every phase, and 0 after reset (R25, R26). -/
def Obligations.StagingRegistersHoldTheirBits : Prop :=
  let putKey := fun (r : Bits80) (s : State) => { s with key := r }
  let putIv := fun (r : Bits80) (s : State) => { s with iv := r }
  StagedAt State.key putKey 4 0 32 31 ∧ StagedAt State.key putKey 5 32 32 31 ∧
  StagedAt State.key putKey 6 64 16 15 ∧
  StagedAt State.iv putIv 8 0 32 31 ∧ StagedAt State.iv putIv 9 32 32 31 ∧
  StagedAt State.iv putIv 10 64 16 15 ∧
  State.reset.key = 0 ∧ State.reset.iv = 0

/-- A string of 20 hex digits: its bits, most significant bit of the first digit first, and the three writes that stage
it, whatever the register held; another number of digits produces no write (R66, R99). -/
def Obligations.ThreeWritesStageTheString : Prop :=
  (∀ digits : List (BitVec 4), digits.length = 20 →
    ∃ r : Bits80, setKey digits = some (keyWrites r) ∧ setIv digits = some (ivWrites r) ∧
      ∀ j b, j < 20 → b < 4 → stagedBit r (4 * j + b) = (digits.getD j 0).getLsbD (3 - b)) ∧
  (∀ digits : List (BitVec 4), digits.length ≠ 20 → setKey digits = none ∧ setIv digits = none) ∧
  (∀ (r q : Bits80),
    setStaged2 (stagedWord2 r) (setStaged1 (stagedWord1 r) (setStaged0 (stagedWord0 r) q)) = r) ∧
  setKey [0, 1, 2, 3, 4, 5, 6, 7, 8, 9, 10, 11, 12, 13, 14, 15, 1, 2, 3, 4] =
    some [.memWrite 0x10 4 0x01234567#32, .memWrite 0x14 4 0x89ABCDEF#32, .memWrite 0x18 4 0x00001234#32]

/-- The state window shows every cell, and only the cells (R67, R24). -/
def Obligations.StateWindowShowsTheCells : Prop :=
  (∀ (s : State) (k j : Nat), k ≤ 8 → j ≤ 31 →
    (readReg (regAt (16 + k)) s).getLsbD (31 - j) = cell s.cells (32 * k + j)) ∧
  ∀ s t : State, (∀ k, k ≤ 8 → readReg (regAt (16 + k)) s = readReg (regAt (16 + k)) t) →
    s.cells = t.cells

/-- The fields of STATUS (R33), with the codes of R28 and R230; writes are ignored and reset leaves 0. -/
def Obligations.StatusShowsItsFields : Prop :=
  (∀ s : State,
    (readReg (regAt 1) s).extractLsb' 0 2 =
      (match s.phase with | .empty => 0#2 | .setup => 1#2 | .ready => 2#2) ∧
    (readReg (regAt 1) s).getLsbD 2 = decide (s.phase = .setup) ∧
    (readReg (regAt 1) s).getLsbD 3 = false ∧
    (readReg (regAt 1) s).extractLsb' 4 4 =
      (match s.err with
        | .none => 0#4 | .invalidLength => 1#4 | .invalidRequest => 2#4
        | .noEngine => 3#4 | .busy => 4#4 | .illegalCommand => 5#4) ∧
    (readReg (regAt 1) s).extractLsb' 8 6 = s.ksCount ∧
    (readReg (regAt 1) s).extractLsb' 14 18 = 0#18 ∧
    ∀ v, writeReg (regAt 1) v s = .next s) ∧
  readReg (regAt 1) State.reset = 0

/-- PARAM shows a warm-up count that fits its field, 0x480 on conforming hardware, and no write changes it (R32; for a
count that does not fit, the field is a free value: notes/assumptions/7.md; the model starts from conforming hardware:
notes/assumptions/1.md). -/
def Obligations.ParamShowsTheWarmupCount : Prop :=
  ∀ (s : State) (v : Word),
    (s.config.warmup < 65536 →
      ((readReg (regAt 2) s).extractLsb' 0 16).toNat = s.config.warmup) ∧
    (readReg (regAt 2) s).extractLsb' 16 16 = 0#16 ∧
    (s.config.warmup = 1152 → readReg (regAt 2) s = 0x00000480#32) ∧
    writeReg (regAt 2) v s = .next s ∧ State.reset.config.warmup = 1152

/-- `pack32` and `unpack32` put the first bit at bit 31 (R65), and a word's bytes keep that order, the first bit of each
byte its most significant (R68). -/
def Obligations.PackPutsTheFirstBitAtTheTop : Prop :=
  (∀ L : List Bool, L.length ≤ 32 → HoldsBits (pack32 L) L.length (fun j => L.getD j false)) ∧
  (∀ (w : Word) (n : Nat), n ≤ 32 → unpack32 w n = (List.range n).map fun j => w.getLsbD (31 - j)) ∧
  ∀ (w : Word) (b j : Nat), b < 4 → j < 8 → (streamByte w b).getLsbD (7 - j) = w.getLsbD (31 - (8 * b + j))

/-- The register `S` is written only by the load of INIT, a warm-up step, the clocks of GEN, XOR and INV, and reset (R23).
A warm-up step is the sequencer's own: no host step is taken with it. -/
def Obligations.RegisterHasOnlyItsWriters : Prop :=
  ∀ s t : State, step s = .next t → t.cells ≠ s.cells →
    (s.phase = .setup ∧ t.cells = fwd s.cells ∧ t.host = s.host) ∨
    (HostTook s .applyReset ∧ t.cells = 0) ∨
    ∃ v, HostTook s (.memWrite 0 4 v) ∧
      ((s.phase ≠ .setup ∧ decode v = .instr (.init 80 80) ∧ t.cells = load s.key s.iv) ∨
        (s.phase = .ready ∧ ∃ n : Nat, n ≤ 32 ∧
          (((decode v = .instr (.gen n) ∨ decode v = .instr (.xor n)) ∧ t.cells = fwd^[n] s.cells) ∨
            (decode v = .instr (.inv n) ∧ t.cells = invClock^[n] s.cells))))

/-- PHASE is written only by INIT, the last warm-up step and reset; WCNT only by INIT, a warm-up step and reset; the
build's parameter by nothing; and no read shows WCNT (R6, R28, R29). -/
def Obligations.SequencerRegistersHaveOnlyTheirWriters : Prop :=
  (∀ (r : PortReg) (s : State) (n : Nat), readReg r { s with wcnt := n } = readReg r s) ∧
  ∀ s t : State, step s = .next t →
    t.config = s.config ∧
    (t.phase ≠ s.phase →
      (s.phase = .setup ∧ t.phase = .ready ∧ t.wcnt = s.wcnt + 1 ∧ t.wcnt = s.config.warmup ∧ t.host = s.host) ∨
      (HostTook s .applyReset ∧ t.phase = .empty) ∨
      (s.phase ≠ .setup ∧ ∃ v, HostTook s (.memWrite 0 4 v) ∧ decode v = .instr (.init 80 80) ∧
        t.phase = if s.config.warmup = 0 then .ready else .setup)) ∧
    (t.wcnt ≠ s.wcnt →
      (s.phase = .setup ∧ t.wcnt = s.wcnt + 1 ∧ t.host = s.host) ∨
      (HostTook s .applyReset ∧ t.wcnt = 0) ∨
      (s.phase ≠ .setup ∧ ∃ v, HostTook s (.memWrite 0 4 v) ∧ decode v = .instr (.init 80 80) ∧ t.wcnt = 0))

/-- The data registers are written only by their writers: KEY, IV and DATA_IN by the host and reset, never by the core; KS_DATA
and KS_COUNT by a command or reset; DATA_OUT by XOR, INIT or reset (R27, R30, R31, R271). -/
def Obligations.DataRegistersHaveOnlyTheirWriters : Prop :=
  ∀ s t : State, step s = .next t →
    (t.key ≠ s.key → HostTook s .applyReset ∨
      ∃ v, HostTook s (.memWrite 0x10 4 v) ∨ HostTook s (.memWrite 0x14 4 v) ∨ HostTook s (.memWrite 0x18 4 v)) ∧
    (t.iv ≠ s.iv → HostTook s .applyReset ∨
      ∃ v, HostTook s (.memWrite 0x20 4 v) ∨ HostTook s (.memWrite 0x24 4 v) ∨ HostTook s (.memWrite 0x28 4 v)) ∧
    (t.dataIn ≠ s.dataIn → HostTook s .applyReset ∨ HostTook s (.memWrite 0x34 4 t.dataIn)) ∧
    (t.ksData ≠ s.ksData ∨ t.ksCount ≠ s.ksCount → HostTook s .applyReset ∨
      ∃ v i, HostTook s (.memWrite 0 4 v) ∧ decode v = .instr i ∧ t.err = .none) ∧
    (t.dataOut ≠ s.dataOut → HostTook s .applyReset ∨
      ∃ v, HostTook s (.memWrite 0 4 v) ∧
        (decode v = .instr (.init 80 80) ∨ ∃ n, decode v = .instr (.xor n)))

/-- ERR takes the result of every command written to CMD, and nothing else but reset writes it (R34). -/
def Obligations.ErrIsWrittenByCommandsAlone : Prop :=
  (∀ (s : State) (rest : List HostOp) (v : Word), s.resetHeld = false → HostTurn s (.memWrite 0 4 v) rest →
    ∃ t, step s = .next t ∧ t.err = reportedError (decode v) s.phase) ∧
  ∀ s t : State, step s = .next t → t.err ≠ s.err →
    (∃ v, HostTook s (.memWrite 0 4 v)) ∨ (HostTook s .applyReset ∧ t.err = .none)

/-! ### 30_encoding.md -/

/-- The four patterns of R94, and every other word illegal. -/
def Obligations.DecoderAcceptsTheFourPatterns : Prop :=
  ∀ v : Word,
    ((∃ klen ivlen, decode v = .instr (.init klen ivlen)) ↔ v &&& 0xFF0000FF#32 = 0x00000001#32) ∧
    ((∃ n, decode v = .instr (.gen n)) ↔ v &&& 0xFFFF00FF#32 = 0x00000002#32) ∧
    ((∃ n, decode v = .instr (.xor n)) ↔ v &&& 0xFFFF00FF#32 = 0x00000003#32) ∧
    ((∃ n, decode v = .instr (.inv n)) ↔ v &&& 0xFFFF00FF#32 = 0x00000004#32) ∧
    ((∃ why, decode v = .illegal why) ↔
      v &&& 0xFF0000FF#32 ≠ 0x00000001#32 ∧ v &&& 0xFFFF00FF#32 ≠ 0x00000002#32 ∧
      v &&& 0xFFFF00FF#32 ≠ 0x00000003#32 ∧ v &&& 0xFFFF00FF#32 ≠ 0x00000004#32)

/-- The operands of a decoded word as numbers: lengths unsigned, the count two's complement (R93). -/
def Obligations.OperandsAreTheFields : Prop :=
  ∀ v : Word,
    (∀ klen ivlen, decode v = .instr (.init klen ivlen) →
      klen = v.toNat / 256 % 256 ∧ ivlen = v.toNat / 65536 % 256) ∧
    ∀ n, decode v = .instr (.gen n) ∨ decode v = .instr (.xor n) ∨ decode v = .instr (.inv n) →
      n = if v.toNat / 256 % 256 < 128 then ((v.toNat / 256 % 256 : Nat) : Int)
        else ((v.toNat / 256 % 256 : Nat) : Int) - 256

/-- A set reserved bit makes a word with OPC 0x1..0x4 illegal (R95). -/
def Obligations.ReservedBitsMakeAWordIllegal : Prop :=
  ∀ v : Word,
    (v.extractLsb' 0 4 = 1#4 → v.extractLsb' 4 4 ≠ 0#4 ∨ v.extractLsb' 24 8 ≠ 0#8 →
      decode v = .illegal .reservedBits) ∧
    (v.extractLsb' 0 4 = 2#4 ∨ v.extractLsb' 0 4 = 3#4 ∨ v.extractLsb' 0 4 = 4#4 →
      v.extractLsb' 4 4 ≠ 0#4 ∨ v.extractLsb' 16 16 ≠ 0#16 → decode v = .illegal .reservedBits)

/-- Decoding the word of a well-formed command gives the command back, with every operand (R93, R98). -/
def Obligations.DecodeOfEncodeIsTheCommand : Prop :=
  ∀ i : Instr, i.wellFormed = true → decode (encode i) = .instr i

/-- A word that decodes is the word of its command, and the command is well formed (R93, R94). -/
def Obligations.EncodeOfDecodeIsTheWord : Prop :=
  ∀ (v : Word) (i : Instr), decode v = .instr i → encode i = v ∧ i.wellFormed = true

/-- The assembler of R98: the word as a number, no word outside a field's range, and the rule's five examples. -/
def Obligations.AssemblerGivesTheStatedWords : Prop :=
  (∀ klen ivlen : Nat, klen ≤ 255 → ivlen ≤ 255 →
    assemble (.init klen ivlen) = some (BitVec.ofNat 32 (ivlen * 2 ^ 16 + klen * 2 ^ 8 + 1))) ∧
  (∀ n : Int, -128 ≤ n → n ≤ 127 →
    assemble (.gen n) = some (BitVec.ofNat 32 ((n % 256).toNat * 2 ^ 8 + 2)) ∧
    assemble (.xor n) = some (BitVec.ofNat 32 ((n % 256).toNat * 2 ^ 8 + 3)) ∧
    assemble (.inv n) = some (BitVec.ofNat 32 ((n % 256).toNat * 2 ^ 8 + 4))) ∧
  (∀ klen ivlen : Nat, 255 < klen ∨ 255 < ivlen → assemble (.init klen ivlen) = none) ∧
  (∀ n : Int, n < -128 ∨ 127 < n →
    assemble (.gen n) = none ∧ assemble (.xor n) = none ∧ assemble (.inv n) = none) ∧
  assemble (.init 80 80) = some 0x00505001#32 ∧ assemble (.gen 32) = some 0x00002002#32 ∧
  assemble (.xor 8) = some 0x00000803#32 ∧ assemble (.inv 1) = some 0x00000104#32 ∧
  assemble (.gen (-1)) = some 0x0000FF02#32

/-- Words written out in 95_test_vectors.md V8 decode to the commands, or the rejections, the vector gives. -/
def Obligations.VectorWordsDecode : Prop :=
  decode 0x00505001#32 = .instr (.init 80 80) ∧ decode 0x00515001#32 = .instr (.init 80 81) ∧
  decode 0x00008002#32 = .instr (.gen (-128)) ∧ decode 0x0000FB03#32 = .instr (.xor (-5)) ∧
  decode 0x00002004#32 = .instr (.inv 32) ∧ decode 0x00000000#32 = .illegal .reservedOpcode ∧
  decode 0x00002005#32 = .illegal .reservedOpcode ∧ decode 0x00505011#32 = .illegal .reservedBits ∧
  decode 0x01505001#32 = .illegal .reservedBits ∧ decode 0x80002002#32 = .illegal .reservedBits

/-- A step runs the decoded command: when the host's turn is a write of a word to CMD that decodes, the step is `exec` of
that command, in the state with that host step taken off (R35, R70, R96). -/
def Obligations.StepRunsTheDecodedCommand : Prop :=
  (∀ (s : State) (rest : List HostOp) (v : Word) (i : Instr),
    HostTurn s (.memWrite 0 4 v) rest → s.resetHeld = false → decode v = .instr i →
    step s = exec i (takeHostOp rest s)) ∧
  ∀ (s : State) (nbits w : Nat) (i : Instr), decodeTableWord nbits w = some i →
    step (s.withFetchWord nbits w) = exec i (takeHostOp s.host (s.withFetchWord nbits w))

/-- A write of any word to CMD completes, reports the first error that applies, and if it reports one changes nothing but
ERR (R231, R233). -/
def Obligations.FailedCommandChangesOnlyErr : Prop :=
  ∀ (s : State) (v : Word), ∃ t, writeReg (regAt 0) v s = .next t ∧
    t.err = reportedError (decode v) s.phase ∧
    (t.err ≠ .none → t = { s with err := reportedError (decode v) s.phase })

/-! ### 40_register_clocks.md -/

/-- The forward clock, cell by cell (R121, R122). -/
def Obligations.ForwardClockCellByCell : Prop :=
  ∀ S : Cells,
    cell (fwd S) 0 = (cell S 242 ^^ (cell S 285 && cell S 286) ^^ cell S 287 ^^ cell S 68) ∧
    (∀ i, 1 ≤ i → i ≤ 92 → cell (fwd S) i = cell S (i - 1)) ∧
    cell (fwd S) 93 = (cell S 65 ^^ (cell S 90 && cell S 91) ^^ cell S 92 ^^ cell S 170) ∧
    (∀ i, 94 ≤ i → i ≤ 176 → cell (fwd S) i = cell S (i - 1)) ∧
    cell (fwd S) 177 = (cell S 161 ^^ (cell S 174 && cell S 175) ^^ cell S 176 ^^ cell S 263) ∧
    ∀ i, 178 ≤ i → i ≤ 287 → cell (fwd S) i = cell S (i - 1)

/-- The keystream clock is the output bit and the forward clock (R124, R125). -/
def Obligations.KeystreamClockIsOutputAndForward : Prop :=
  ∀ S : Cells,
    (ks S).1 = (cell S 65 ^^ cell S 92 ^^ cell S 161 ^^ cell S 176 ^^ cell S 242 ^^ cell S 287) ∧
    (ks S).2 = fwd S

/-- The inverse clock is the exact inverse of the forward clock, any number of times, so the forward clock is a
bijection (R127). -/
def Obligations.InverseClockUndoesForward : Prop :=
  (∀ (S : Cells) (n : Nat), invClock^[n] (fwd^[n] S) = S ∧ fwd^[n] (invClock^[n] S) = S) ∧
  (∀ S : Cells, invClock (fwd S) = S ∧ fwd (invClock S) = S) ∧ Function.Bijective fwd

/-- The bit a forward clock had emitted can be computed from its result (R128). -/
def Obligations.UndoneBitIsRecovered : Prop :=
  ∀ S : Cells,
    outBit (invClock (fwd S)) = outBit S ∧
    outBit (invClock S) = (cell S 66 ^^ cell (invClock S) 92 ^^ cell S 162 ^^ cell (invClock S) 176
      ^^ cell S 243 ^^ cell (invClock S) 287)

/-- `n` keystream clocks leave `n` forward clocks' state and give their output bits in order (R130). -/
def Obligations.KeystreamRunIsForwardRun : Prop :=
  ∀ (S : Cells) (n : Nat),
    fwd^[0] S = S ∧ fwd^[n + 1] S = fwd (fwd^[n] S) ∧
    invClock^[0] S = S ∧ invClock^[n + 1] S = invClock (invClock^[n] S) ∧
    ksRun 0 S = ([], S) ∧
    ksRun (n + 1) S = ((ks S).1 :: (ksRun n (ks S).2).1, (ksRun n (ks S).2).2) ∧
    (ksRun n S).2 = fwd^[n] S ∧
    (ksRun n S).1 = (List.range n).map fun j => outBit (fwd^[j] S)

/-- The loaded state, cell by cell, and the load of the zero key and IV (R131, R22). -/
def Obligations.LoadPlacesKeyIvAndOnes : Prop :=
  (∀ k v : Bits80,
    (∀ i, i ≤ 79 → cell (load k v) i = stagedBit k i) ∧
    (∀ i, 80 ≤ i → i ≤ 92 → cell (load k v) i = false) ∧
    (∀ i, i ≤ 79 → cell (load k v) (93 + i) = stagedBit v i) ∧
    (∀ i, 173 ≤ i → i ≤ 284 → cell (load k v) i = false) ∧
    ∀ i, 285 ≤ i → i ≤ 287 → cell (load k v) i = true) ∧
  (∀ i, i ≤ 287 → (cell (load 0 0) i = true ↔ 285 ≤ i)) ∧ stateWord (load 0 0) 8 = 0x00000007#32

/-- No state reached from a loaded one by forward clocks is all zero (R132). -/
def Obligations.WarmedStateIsNeverAllZero : Prop :=
  fwd 0 = 0 ∧ ∀ (k v : Bits80) (n : Nat), load k v ≠ 0 ∧ fwd^[n] (load k v) ≠ 0

/-- In a run of up to 66 clocks every tap and every output bit is a function of the state before the run; an inserted
cell is first read 65 or 68 clocks later (R133). -/
def Obligations.SixtySixClocksReadOldCells : Prop :=
  (∀ (S : Cells) (j : Nat), j ≤ 65 →
    tap1 (fwd^[j] S) =
      (cell S (65 - j) ^^ (cell S (90 - j) && cell S (91 - j)) ^^ cell S (92 - j) ^^ cell S (170 - j)) ∧
    tap2 (fwd^[j] S) =
      (cell S (161 - j) ^^ (cell S (174 - j) && cell S (175 - j)) ^^ cell S (176 - j) ^^ cell S (263 - j)) ∧
    tap3 (fwd^[j] S) =
      (cell S (242 - j) ^^ (cell S (285 - j) && cell S (286 - j)) ^^ cell S (287 - j) ^^ cell S (68 - j)) ∧
    outBit (fwd^[j] S) =
      (cell S (65 - j) ^^ cell S (92 - j) ^^ cell S (161 - j) ^^ cell S (176 - j) ^^ cell S (242 - j)
        ^^ cell S (287 - j))) ∧
  ∀ S : Cells, cell (fwd^[65] S) 65 = cell S 0 ∧ cell (fwd^[68] S) 161 = cell S 93 ∧
    cell (fwd^[65] S) 242 = cell S 177

/-! ### 41_setup.md -/

/-- INIT 80, 80 outside SETUP loads the engine and changes nothing else (R152, R155). -/
def Obligations.InitLoadsTheEngine : Prop :=
  ∀ s : State, s.phase ≠ .setup →
    exec (.init 80 80) s = .next { s with
      cells := load s.key s.iv, ksData := 0, ksCount := 0, dataOut := 0, wcnt := 0,
      phase := if s.config.warmup = 0 then .ready else .setup, err := .none }

/-- INIT with a length other than 80 reports INVALID_LENGTH and changes nothing else (R151). -/
def Obligations.InitChecksBothLengths : Prop :=
  ∀ (s : State) (klen ivlen : Nat), s.phase ≠ .setup → klen ≠ 80 ∨ ivlen ≠ 80 →
    exec (.init klen ivlen) s = .next { s with err := .invalidLength }

/-- In SETUP every command reports BUSY and does nothing else; in EMPTY every command but INIT reports NO_ENGINE (R96, R156). -/
def Obligations.CommandsWithoutAReadyEngine : Prop :=
  ∀ (s : State) (i : Instr),
    (s.phase = .setup → exec i s = .next { s with err := .busy }) ∧
    (s.phase = .empty → (∀ klen ivlen, i ≠ .init klen ivlen) → exec i s = .next { s with err := .noEngine })

/-- One sequencer step is one forward clock (R153); outside SETUP it has none, and with no host step the model's step changes
nothing (notes/assumptions/8.md). -/
def Obligations.SequencerStepIsOneForwardClock : Prop :=
  (∀ s : State, s.phase = .setup → s.host = [] ∨ gapDue s ≠ 0 →
    ∃ t, step s = .next t ∧ t.cells = fwd s.cells ∧ t.wcnt = s.wcnt + 1 ∧
      t.phase = (if s.wcnt + 1 = s.config.warmup then .ready else .setup) ∧
      t = { s with cells := t.cells, wcnt := t.wcnt, phase := t.phase, gap := t.gap, draws := t.draws }) ∧
  ∀ s : State, s.phase ≠ .setup → s.host = [] → step s = .next s

/-- Warm-up ends after exactly the clocks that remain, with BUSY until then (R154). -/
def Obligations.WarmupEndsAfterTheStatedClocks : Prop :=
  ∀ (s : State) (r : Nat), s.phase = .setup → s.host = [] → s.wcnt + r = s.config.warmup → 0 < r →
    Sys2Proof.core.run r s =
      .next { s with cells := fwd^[r] s.cells, wcnt := s.config.warmup, phase := .ready } ∧
    ∀ k, k < r → Sys2Proof.core.run k s = .next { s with cells := fwd^[k] s.cells, wcnt := s.wcnt + k }

/-- Every number of sequencer steps before a waiting host access, from 0 to the number remaining, is a run of the
model (R71).  Where the number is not drawn yet it is the next free value of `Config.seqSteps`, or the number remaining if
that is smaller, and the count after the host's step is a fresh one (notes/assumptions/3.md). -/
def Obligations.EveryInterleavingIsARun : Prop :=
  ∀ (s : State) (op : HostOp) (rest : List HostOp) (r : Nat), s.phase = .setup → s.host = op :: rest →
    s.wcnt + r = s.config.warmup → 0 < r →
    (∀ k, k ≤ r → ∃ t : State, Sys2Proof.core.run k { s with gap := some k } = .next t ∧
      WarmsBeforeHost k r op rest s t) ∧
    (s.gap = none → ∃ t : State, Sys2Proof.core.run (min (Config.seqSteps s.draws) r) s = .next t ∧
      WarmsBeforeHost (min (Config.seqSteps s.draws) r) r op rest s t ∧
      (takeHostOp rest t).gap = none ∧ (takeHostOp rest t).draws = s.draws + 1)

/-- While warm-up lasts, every step either is one of its clocks, with the host's steps left as they are, or takes one of the
host's steps, and no host step but reset touches it: so a run whose host stops asking leaves SETUP (R159). -/
def Obligations.WarmupCannotBeHeldUp : Prop :=
  ∀ s t : State, s.phase = .setup → s.wcnt < s.config.warmup → step s = .next t →
    (t.phase = .setup →
      t.host.length + (t.config.warmup - t.wcnt) < s.host.length + (s.config.warmup - s.wcnt)) ∧
    (t.phase ≠ .empty →
      ((∃ op, HostTook s op ∧ t.host.length + 1 = s.host.length) ∧
        t.cells = s.cells ∧ t.wcnt = s.wcnt ∧ t.phase = s.phase) ∨
      (t.host = s.host ∧ t.cells = fwd s.cells ∧ t.wcnt = s.wcnt + 1)) ∧
    (t.phase = .empty → HostTook s .applyReset)

/-- From a successful INIT on, whatever else the host does in SETUP, `S` is the loaded state after WCNT forward clocks, and
after WARMUP_CLOCKS of them once PHASE = READY, which it stays until a command or reset (R158). -/
def Obligations.WarmupTracksTheLoadedState : Prop :=
  (∀ (s t u : State) (n : Nat), s.phase ≠ .setup → exec (.init 80 80) s = .next t → AfterInit n t u →
    (u.phase = .setup → u.cells = fwd^[u.wcnt] (load s.key s.iv)) ∧
    (u.phase = .ready → u.cells = fwd^[s.config.warmup] (load s.key s.iv))) ∧
  ∀ s t : State, s.phase = .ready → step s = .next t →
    (∀ v, ¬ HostTook s (.memWrite 0 4 v)) → ¬ HostTook s .applyReset →
    t.phase = .ready ∧ t.cells = s.cells

/-- Two cores of one build given the same KEY, IV and INIT hold the same `S` when each reaches READY, whatever their hosts and
sequencers do until then (R160). -/
def Obligations.SetupIsDeterministic : Prop :=
  ∀ (s s' t t' u u' : State) (n n' : Nat), s.key = s'.key → s.iv = s'.iv → s.config = s'.config →
    s.phase ≠ .setup → s'.phase ≠ .setup →
    exec (.init 80 80) s = .next t → exec (.init 80 80) s' = .next t' →
    AfterInit n t u → AfterInit n' t' u' → u.phase = .ready → u'.phase = .ready → u.cells = u'.cells

/-! ### 42_keystream.md and 43_inverse.md -/

/-- GEN n: the next n keystream bits, first bit at the top, and n forward clocks; a count outside 0..32 reports
INVALID_REQUEST and changes nothing else (R180). -/
def Obligations.GenGivesTheNextBits : Prop :=
  ∀ (s : State) (n : Int), s.phase = .ready →
    (0 ≤ n → n ≤ 32 →
      ∃ d, exec (.gen n) s = .next { s with
          cells := fwd^[n.toNat] s.cells, ksData := d, ksCount := BitVec.ofInt 6 n, err := .none } ∧
        HoldsBits d n.toNat (fun j => outBit (fwd^[j] s.cells))) ∧
    (n < 0 ∨ 32 < n → exec (.gen n) s = .next { s with err := .invalidRequest })

/-- GEN 0 performs no clock (R181). -/
def Obligations.GenZeroPerformsNoClock : Prop :=
  ∀ s : State, s.phase = .ready → exec (.gen 0) s = .next { s with ksData := 0, ksCount := 0, err := .none }

/-- XOR n: GEN's effect, and DATA_OUT = (DATA_IN ^ KS_DATA) & M(n); the count is checked as GEN does (R183). -/
def Obligations.XorCombinesWithKeystream : Prop :=
  ∀ (s : State) (n : Int), s.phase = .ready →
    (0 ≤ n → n ≤ 32 →
      ∃ d e, exec (.xor n) s = .next { s with
          cells := fwd^[n.toNat] s.cells, ksData := d, ksCount := BitVec.ofInt 6 n, dataOut := e,
          err := .none } ∧
        HoldsBits d n.toNat (fun j => outBit (fwd^[j] s.cells)) ∧
        HoldsBits e n.toNat (fun j => s.dataIn.getLsbD (31 - j) ^^ outBit (fwd^[j] s.cells)) ∧
        e = (s.dataIn ^^^ d) &&& topMask n.toNat) ∧
    (n < 0 ∨ 32 < n → exec (.xor n) s = .next { s with err := .invalidRequest })

/-- Decrypting at the same register gives the data back: with C = DATA_OUT of XOR n on P, XOR n on C gives P & M(n) (R184). -/
def Obligations.XorTwiceGivesTheDataBack : Prop :=
  ∀ (s s' t t' : State) (n : Int), s.phase = .ready → s'.phase = .ready → 0 ≤ n → n ≤ 32 →
    s'.cells = s.cells → exec (.xor n) s = .next t → s'.dataIn = t.dataOut → exec (.xor n) s' = .next t' →
    t'.dataOut = s.dataIn &&& topMask n.toNat ∧ t'.cells = t.cells

/-- Streaming continuity: two commands give the bits of one run, and a request of any length N is the loop of GEN 32
with one last GEN (N mod 32) (R182). -/
def Obligations.LongRequestIsTheGenLoop : Prop :=
  (∀ (s : State) (n m : Nat), s.phase = .ready → n ≤ 32 → m ≤ 32 →
    ∃ t u, exec (.gen n) s = .next t ∧ exec (.gen m) t = .next u ∧
      u.cells = fwd^[n + m] s.cells ∧
      unpack32 t.ksData n ++ unpack32 u.ksData m = (ksRun (n + m) s.cells).1) ∧
  ∀ (s : State) (N : Nat), s.phase = .ready →
    ∃ u, genLoop (N / 32) (N % 32) s = some ((ksRun N s.cells).1, u) ∧
      u.cells = fwd^[N] s.cells ∧ u.phase = .ready

/-- The results of GEN and XOR are a function of S, n and DATA_IN only (R185, R21). -/
def Obligations.ResultsDependOnRegisterAndData : Prop :=
  ∀ (s s' t t' : State) (n : Int), s.phase = .ready → s'.phase = .ready → s'.cells = s.cells →
    0 ≤ n → n ≤ 32 →
    (exec (.gen n) s = .next t → exec (.gen n) s' = .next t' →
      t'.cells = t.cells ∧ t'.ksData = t.ksData ∧ t'.ksCount = t.ksCount ∧ t'.err = t.err) ∧
    (s'.dataIn = s.dataIn → exec (.xor n) s = .next t → exec (.xor n) s' = .next t' →
      t'.cells = t.cells ∧ t'.ksData = t.ksData ∧ t'.ksCount = t.ksCount ∧ t'.dataOut = t.dataOut ∧
        t'.err = t.err)

/-- KEY and IV do not matter to GEN, XOR and INV, nor DATA_IN to GEN and INV, in any phase (R27, R213). -/
def Obligations.EngineCommandsIgnoreStaging : Prop :=
  ∀ (s : State) (k v : Bits80) (d : Word) (n : Int),
    (∀ i, i = .gen n ∨ i = .xor n ∨ i = .inv n →
      ∃ t, exec i s = .next t ∧ exec i { s with key := k, iv := v } = .next { t with key := k, iv := v }) ∧
    ∀ i, i = .gen n ∨ i = .inv n →
      ∃ t, exec i s = .next t ∧ exec i { s with dataIn := d } = .next { t with dataIn := d }

/-- INV n: n inverse clocks and the bits they undo, latest first; the count is checked as GEN does (R210). -/
def Obligations.InvRunsTheRegisterBackwards : Prop :=
  ∀ (s : State) (n : Int), s.phase = .ready →
    (0 ≤ n → n ≤ 32 →
      ∃ d, exec (.inv n) s = .next { s with
          cells := invClock^[n.toNat] s.cells, ksData := d, ksCount := BitVec.ofInt 6 n, err := .none } ∧
        HoldsBits d n.toNat (fun j => outBit (invClock^[j + 1] s.cells))) ∧
    (n < 0 ∨ 32 < n → exec (.inv n) s = .next { s with err := .invalidRequest })

/-- Running back past warm-up recovers the loaded state, with the key and IV readable in the window; PHASE stays
READY however far INV runs (R211). -/
def Obligations.RunningBackRecoversTheKey : Prop :=
  (∀ (k v : Bits80) (m : Nat),
    invClock^[m + 1152] (fwd^[m] (fwd^[1152] (load k v))) = load k v ∧
    stateWord (load k v) 0 = stagedWord0 k ∧ stateWord (load k v) 1 = stagedWord1 k ∧
    (stateWord (load k v) 2).extractLsb' 16 16 = k.extractLsb' 0 16 ∧
    ∀ i, i < 80 → (stateWord (load k v) ((93 + i) / 32)).getLsbD (31 - (93 + i) % 32) = stagedBit v i) ∧
  ∀ (s : State) (n : Int), s.phase = .ready → ∃ t, exec (.inv n) s = .next t ∧ t.phase = .ready

/-- GEN or XOR and then INV, or INV and then GEN, leave the register as it was, and the bits come back mirrored (R212). -/
def Obligations.InvAndGenRoundTrip : Prop :=
  ∀ (s : State) (n : Nat), s.phase = .ready → n ≤ 32 →
    (∀ i : Instr, i = .gen n ∨ i = .xor n →
      ∃ t u, exec i s = .next t ∧ exec (.inv n) t = .next u ∧ u.cells = s.cells ∧
        unpack32 u.ksData n = (unpack32 t.ksData n).reverse) ∧
    ∃ t u, exec (.inv n) s = .next t ∧ exec (.gen n) t = .next u ∧ u.cells = s.cells ∧
      unpack32 u.ksData n = (unpack32 t.ksData n).reverse

/-- The frame of all four commands: what none of them changes, and what GEN, XOR and INV leave besides; every port word but
STATUS, KS_DATA, DATA_OUT and the window reads as before (R152, R180, R183, R210). -/
def Obligations.CommandsLeaveTheRestAlone : Prop :=
  ∀ (i : Instr) (s t : State), exec i s = .next t →
    (t.config = s.config ∧ t.key = s.key ∧ t.iv = s.iv ∧ t.dataIn = s.dataIn ∧ t.host = s.host ∧
      t.reads = s.reads ∧ t.resetHeld = s.resetHeld ∧ t.gap = s.gap ∧ t.draws = s.draws) ∧
    ((∀ klen ivlen, i ≠ .init klen ivlen) → t.phase = s.phase ∧ t.wcnt = s.wcnt) ∧
    ((∀ n, i ≠ .xor n) → (∀ klen ivlen, i ≠ .init klen ivlen) → t.dataOut = s.dataOut) ∧
    ∀ w, w < 32 → w ≠ 1 → w ≠ 12 → w ≠ 14 → ¬ (16 ≤ w ∧ w ≤ 24) →
      readReg (regAt w) t = readReg (regAt w) s

/-! ### 60_exceptions.md and 70_reset_and_hazards.md -/

/-- Applied from any state, reset gives every register its reset value, SETUP included; while it is applied every access is
refused; and the state the model starts from has those values (R260, R261). -/
def Obligations.ResetGivesEveryRegisterItsValue : Prop :=
  (∀ (s : State) (rest : List HostOp), HostTurn s .applyReset rest →
    ∃ t, step s = .next t ∧ t.cells = 0 ∧ t.phase = .empty ∧ t.wcnt = 0 ∧ t.key = 0 ∧ t.iv = 0 ∧
      t.ksData = 0 ∧ t.ksCount = 0 ∧ t.dataIn = 0 ∧ t.dataOut = 0 ∧ t.err = .none ∧
      readReg (regAt 1) t = 0 ∧ readReg (regAt 2) t = readReg (regAt 2) s ∧ t.resetHeld = true) ∧
  (∀ (s : State) (rest : List HostOp) (off width : Nat) (v : Word), s.resetHeld = true →
    (HostTurn s (.memRead off width) rest → step s = .refused .accessDuringReset) ∧
    (HostTurn s (.memWrite off width v) rest → step s = .refused .accessDuringReset)) ∧
  resetRegisters State.reset = State.reset

/-- Boot and rekeying: the six staging writes in any order and then `INIT 80, 80`, from EMPTY or READY, and the warm-up
clocks, leave the warmed engine of that key and IV, READY and with no error (R263, R264). -/
def Obligations.BootReachesTheWarmedEngine : Prop :=
  ∀ (s : State) (k v : Bits80) (writes : List HostOp), s.phase ≠ .setup → s.resetHeld = false →
    writes.Perm (keyWrites k ++ ivWrites v) → s.host = writes ++ [.memWrite 0 4 0x00505001#32] →
    ∃ t : State, Sys2Proof.core.run (7 + s.config.warmup) s = .next t ∧ t = { s with
      key := k, iv := v, cells := fwd^[s.config.warmup] (load k v), phase := .ready, wcnt := t.wcnt,
      ksData := 0, ksCount := 0, dataOut := 0, err := .none, host := [], gap := t.gap, draws := t.draws }

/-- Releasing reset changes no register of the core: the model's reading of the reset input (notes/assumptions/6.md). -/
def Obligations.ReleasingResetChangesNoRegister : Prop :=
  ∀ (s : State) (rest : List HostOp), HostTurn s .releaseReset rest →
    step s = .next { takeHostOp rest s with resetHeld := false }

/-- Under the host's duties no step stops, and the duties last: the core never holds an access (R251). -/
def Obligations.DutifulHostNeverStops : Prop :=
  (∀ s : State, s.dutifulHost → ∃ t, step s = .next t ∧ t.dutifulHost) ∧
  ∀ (s : State) (n : Nat), s.dutifulHost → ∃ t : State, Sys2Proof.core.run n s = .next t

/-- The invariant holds at reset. -/
def Obligations.InvariantHoldsAtReset : Prop := State.reset.Inv

/-- Every step keeps the invariant: the warm-up count is below its end in SETUP, KS_COUNT and KS_DATA fit, no output stands
before READY, the register is zero exactly in EMPTY, ERR fits the phase, and reset holds every register. -/
def Obligations.EveryStepKeepsTheInvariant : Prop :=
  ∀ s t : State, s.Inv → step s = .next t → t.Inv

/-- Under the invariant STATUS never shows a value 93_implementation_defined.md rules out (X4 to X7). -/
def Obligations.StatusIsAlwaysLegal : Prop :=
  ∀ s : State, s.Inv → legalStatus (readReg (regAt 1) s) = true
end

