-- ==== Sys2Proof/Laws/Clocks.lean ====
section
/-! SUPPORT. The clock functions and the load function cell by cell. -/

namespace Sys2Proof.Machine

/-- A state is its cells. -/
theorem cells_ext {S T : Cells} (h : ∀ i, i < 288 → cell S i = cell T i) : S = T :=
  BitVec.eq_of_getMsbD_eq fun i hi => h i hi

@[simp] theorem cell_zero (i : Nat) : cell 0#288 i = false := by simp [cell]

/-- Bits of a concatenation, counted from the most significant end. -/
theorem getMsbD_concat {a b : Nat} (x : BitVec a) (y : BitVec b) (i : Nat) :
    (x ++ y).getMsbD i = if i < a then x.getMsbD i else y.getMsbD (i - a) := by
  rw [BitVec.getMsbD_append]
  by_cases h : a ≤ i
  · simp [h]
  · simp [h, Nat.lt_of_not_le h]

theorem getMsbD_oneBit (b : Bool) (i : Nat) :
    (BitVec.ofBool b).getMsbD i = (decide (i = 0) && b) := by
  cases b <;> simp [BitVec.getMsbD]

/-- Bit `i` of a run of cells is the cell at that distance from its start. -/
theorem getMsbD_cellsFrom (S : Cells) (a len i : Nat) (h : a + len ≤ 288) :
    (cellsFrom S a len).getMsbD i = (decide (i < len) && cell S (a + i)) := by
  by_cases hi : i < len
  · have h1 : 288 - a - len + (len - 1 - i) = 288 - 1 - (a + i) := by omega
    have h2 : len - 1 - i < len := by omega
    have h3 : a + i < 288 := by omega
    simp only [cellsFrom, cell, BitVec.getMsbD, BitVec.getLsbD_extractLsb', h1, h2, h3, hi,
      decide_true, Bool.true_and]
  · simp [BitVec.getMsbD, hi]

/-- A bit guarded by a condition that holds. -/
theorem guarded_eq {p : Prop} [Decidable p] {x y : Bool} (hp : p) (h : x = y) :
    (decide p && x) = y := by simp [hp, h]

/-- The rotate-and-insert update, cell by cell (R122). -/
theorem cell_insertTaps (t1 t2 t3 : Bool) (S : Cells) (i : Nat) (hi : i < 288) :
    cell (insertTaps t1 t2 t3 S) i =
      if i = 0 then t3 else if i = 93 then t1 else if i = 177 then t2 else cell S (i - 1) := by
  rw [cell, insertTaps, getMsbD_concat, getMsbD_concat, getMsbD_concat, getMsbD_concat, getMsbD_concat,
    getMsbD_cellsFrom _ _ _ _ (by omega), getMsbD_cellsFrom _ _ _ _ (by omega),
    getMsbD_cellsFrom _ _ _ _ (by omega)]
  simp only [getMsbD_oneBit]
  split_ifs <;> first | omega | exact guarded_eq (by omega) (congrArg _ (by omega)) | exact guarded_eq (by omega) rfl

/-- The forward clock, cell by cell (R122). -/
theorem cell_fwd (S : Cells) (i : Nat) (hi : i < 288) :
    cell (fwd S) i =
      if i = 0 then tap3 S else if i = 93 then tap1 S else if i = 177 then tap2 S else cell S (i - 1) :=
  cell_insertTaps _ _ _ S i hi

/-- The inverse clock, cell by cell (R126). -/
theorem cell_invClock (S : Cells) (i : Nat) (hi : i < 288) :
    cell (invClock S) i =
      if i = 92 then recover92 S else if i = 176 then recover176 S
      else if i = 287 then recover287 S else cell S (i + 1) := by
  rw [cell, invClock, getMsbD_concat, getMsbD_concat, getMsbD_concat, getMsbD_concat, getMsbD_concat,
    getMsbD_cellsFrom _ _ _ _ (by omega), getMsbD_cellsFrom _ _ _ _ (by omega),
    getMsbD_cellsFrom _ _ _ _ (by omega)]
  simp only [getMsbD_oneBit]
  split_ifs <;> first | omega | exact guarded_eq (by omega) (congrArg _ (by omega)) | exact guarded_eq (by omega) rfl

/-- The three cells at 1 that end a loaded state (R131). -/
theorem getMsbD_threeOnes (j : Nat) : (0b111#3).getMsbD j = decide (j < 3) := by
  match j with
  | 0 | 1 | 2 => rfl
  | j + 3 => simp [BitVec.getMsbD]

/-- The load function, cell by cell (R131). -/
theorem cell_load (k v : Bits80) (i : Nat) (hi : i < 288) :
    cell (load k v) i =
      if i < 80 then k.getMsbD i else if i < 93 then false else if i < 173 then v.getMsbD (i - 93)
      else decide (285 ≤ i) := by
  rw [cell, load, getMsbD_concat, getMsbD_concat, getMsbD_concat, getMsbD_concat, BitVec.getMsbD_zero,
    BitVec.getMsbD_zero, getMsbD_threeOnes]
  by_cases h1 : i < 80
  · rw [if_pos h1, if_pos (by omega), if_pos (by omega), if_pos (by omega), if_pos h1]
  rw [if_neg h1, if_neg h1]
  by_cases h2 : i < 93
  · rw [if_pos h2, if_pos (by omega), if_pos (by omega), if_pos (by omega)]
  rw [if_neg h2, if_neg h2]
  by_cases h3 : i < 173
  · rw [if_pos h3, if_pos (by omega), if_pos h3]
  rw [if_neg h3, if_neg h3]
  by_cases h4 : i < 285
  · rw [if_pos h4]
    exact (decide_eq_false (by omega)).symm
  · rw [if_neg h4]
    exact decide_eq_decide.mpr (by omega)

/-! ### Runs of clocks, one clock at a time -/

theorem ksRun_succ (n : Nat) (S : Cells) :
    ksRun (n + 1) S = ((ks S).1 :: (ksRun n (ks S).2).1, (ksRun n (ks S).2).2) := rfl

theorem invRun_succ (n : Nat) (S : Cells) :
    invRun (n + 1) S =
      (outBit (invClock S) :: (invRun n (invClock S)).1, (invRun n (invClock S)).2) := rfl

end Sys2Proof.Machine
end

