-- ==== Sys2Proof/Laws/Encode.lean ====
section
/-! SUPPORT. The encoder bit by bit and field by field (30_encoding.md R91, R92). -/

namespace Sys2Proof

/-- Bits of a concatenation, counted from the least significant end. -/
theorem getLsbD_concat {a b : Nat} (x : BitVec a) (y : BitVec b) (i : Nat) :
    (x ++ y).getLsbD i = if i < b then y.getLsbD i else x.getLsbD (i - b) := by
  rw [BitVec.getLsbD_append]

/-- A word of format I, bit by bit. -/
theorem getLsbD_encodeI (klen ivlen i : Nat) :
    (encodeI klen ivlen).getLsbD i =
      if i < 4 then (0x1#4).getLsbD i else if i < 8 then false
      else if i < 16 then (BitVec.ofNat 8 klen).getLsbD (i - 8)
      else (BitVec.ofNat 8 ivlen).getLsbD (i - 16) := by
  rw [encodeI, getLsbD_concat, getLsbD_concat, getLsbD_concat, getLsbD_concat, Nat.sub_sub, Nat.sub_sub, Nat.sub_sub,
    BitVec.getLsbD_zero, BitVec.getLsbD_zero]
  split_ifs <;> first | omega | rfl | exact (BitVec.getLsbD_of_ge _ _ (by omega)).symm

/-- A word of format N, bit by bit. -/
theorem getLsbD_encodeN (opc : BitVec 4) (n : Int) (i : Nat) :
    (encodeN opc n).getLsbD i =
      if i < 4 then opc.getLsbD i else if i < 8 then false else (BitVec.ofInt 8 n).getLsbD (i - 8) := by
  rw [encodeN, getLsbD_concat, getLsbD_concat, getLsbD_concat, Nat.sub_sub, Nat.sub_sub,
    BitVec.getLsbD_zero, BitVec.getLsbD_zero]
  split_ifs <;> first | omega | rfl | exact (BitVec.getLsbD_of_ge _ _ (by omega)).symm

end Sys2Proof
end

