-- ==== Sys2Proof/Laws/State.lean ====
section
/-! SUPPORT. One lemma per field for every named update of the state, so that no proof unfolds a record update. -/

namespace Sys2Proof.Machine

/-! ### Fields after raising a command error (R231) -/

@[simp] theorem raiseError_config (e : ErrCode) (s : State) :
    (raiseError e s).config = s.config := rfl
@[simp] theorem raiseError_cells (e : ErrCode) (s : State) :
    (raiseError e s).cells = s.cells := rfl
@[simp] theorem raiseError_phase (e : ErrCode) (s : State) :
    (raiseError e s).phase = s.phase := rfl
@[simp] theorem raiseError_wcnt (e : ErrCode) (s : State) :
    (raiseError e s).wcnt = s.wcnt := rfl
@[simp] theorem raiseError_key (e : ErrCode) (s : State) :
    (raiseError e s).key = s.key := rfl
@[simp] theorem raiseError_iv (e : ErrCode) (s : State) :
    (raiseError e s).iv = s.iv := rfl
@[simp] theorem raiseError_ksData (e : ErrCode) (s : State) :
    (raiseError e s).ksData = s.ksData := rfl
@[simp] theorem raiseError_ksCount (e : ErrCode) (s : State) :
    (raiseError e s).ksCount = s.ksCount := rfl
@[simp] theorem raiseError_dataIn (e : ErrCode) (s : State) :
    (raiseError e s).dataIn = s.dataIn := rfl
@[simp] theorem raiseError_dataOut (e : ErrCode) (s : State) :
    (raiseError e s).dataOut = s.dataOut := rfl
@[simp] theorem raiseError_err (e : ErrCode) (s : State) :
    (raiseError e s).err = e := rfl
@[simp] theorem raiseError_host (e : ErrCode) (s : State) :
    (raiseError e s).host = s.host := rfl
@[simp] theorem raiseError_reads (e : ErrCode) (s : State) :
    (raiseError e s).reads = s.reads := rfl
@[simp] theorem raiseError_resetHeld (e : ErrCode) (s : State) :
    (raiseError e s).resetHeld = s.resetHeld := rfl
@[simp] theorem raiseError_gap (e : ErrCode) (s : State) :
    (raiseError e s).gap = s.gap := rfl
@[simp] theorem raiseError_draws (e : ErrCode) (s : State) :
    (raiseError e s).draws = s.draws := rfl

/-! ### Fields after recording a run of clocks (R180, R210) -/

@[simp] theorem recordBits_config (r : List Bool × Cells) (n : Nat) (s : State) :
    (recordBits r n s).config = s.config := rfl
@[simp] theorem recordBits_cells (r : List Bool × Cells) (n : Nat) (s : State) :
    (recordBits r n s).cells = r.2 := rfl
@[simp] theorem recordBits_phase (r : List Bool × Cells) (n : Nat) (s : State) :
    (recordBits r n s).phase = s.phase := rfl
@[simp] theorem recordBits_wcnt (r : List Bool × Cells) (n : Nat) (s : State) :
    (recordBits r n s).wcnt = s.wcnt := rfl
@[simp] theorem recordBits_key (r : List Bool × Cells) (n : Nat) (s : State) :
    (recordBits r n s).key = s.key := rfl
@[simp] theorem recordBits_iv (r : List Bool × Cells) (n : Nat) (s : State) :
    (recordBits r n s).iv = s.iv := rfl
@[simp] theorem recordBits_ksData (r : List Bool × Cells) (n : Nat) (s : State) :
    (recordBits r n s).ksData = pack32 r.1 := rfl
@[simp] theorem recordBits_ksCount (r : List Bool × Cells) (n : Nat) (s : State) :
    (recordBits r n s).ksCount = BitVec.ofNat 6 n := rfl
@[simp] theorem recordBits_dataIn (r : List Bool × Cells) (n : Nat) (s : State) :
    (recordBits r n s).dataIn = s.dataIn := rfl
@[simp] theorem recordBits_dataOut (r : List Bool × Cells) (n : Nat) (s : State) :
    (recordBits r n s).dataOut = s.dataOut := rfl
@[simp] theorem recordBits_err (r : List Bool × Cells) (n : Nat) (s : State) :
    (recordBits r n s).err = .none := rfl
@[simp] theorem recordBits_host (r : List Bool × Cells) (n : Nat) (s : State) :
    (recordBits r n s).host = s.host := rfl
@[simp] theorem recordBits_reads (r : List Bool × Cells) (n : Nat) (s : State) :
    (recordBits r n s).reads = s.reads := rfl
@[simp] theorem recordBits_resetHeld (r : List Bool × Cells) (n : Nat) (s : State) :
    (recordBits r n s).resetHeld = s.resetHeld := rfl
@[simp] theorem recordBits_gap (r : List Bool × Cells) (n : Nat) (s : State) :
    (recordBits r n s).gap = s.gap := rfl
@[simp] theorem recordBits_draws (r : List Bool × Cells) (n : Nat) (s : State) :
    (recordBits r n s).draws = s.draws := rfl

/-! ### Fields after resetting the registers (R260) -/

@[simp] theorem resetRegisters_config (s : State) :
    (resetRegisters s).config = s.config := rfl
@[simp] theorem resetRegisters_cells (s : State) :
    (resetRegisters s).cells = 0 := rfl
@[simp] theorem resetRegisters_phase (s : State) :
    (resetRegisters s).phase = .empty := rfl
@[simp] theorem resetRegisters_wcnt (s : State) :
    (resetRegisters s).wcnt = 0 := rfl
@[simp] theorem resetRegisters_key (s : State) :
    (resetRegisters s).key = 0 := rfl
@[simp] theorem resetRegisters_iv (s : State) :
    (resetRegisters s).iv = 0 := rfl
@[simp] theorem resetRegisters_ksData (s : State) :
    (resetRegisters s).ksData = 0 := rfl
@[simp] theorem resetRegisters_ksCount (s : State) :
    (resetRegisters s).ksCount = 0 := rfl
@[simp] theorem resetRegisters_dataIn (s : State) :
    (resetRegisters s).dataIn = 0 := rfl
@[simp] theorem resetRegisters_dataOut (s : State) :
    (resetRegisters s).dataOut = 0 := rfl
@[simp] theorem resetRegisters_err (s : State) :
    (resetRegisters s).err = .none := rfl
@[simp] theorem resetRegisters_host (s : State) :
    (resetRegisters s).host = s.host := rfl
@[simp] theorem resetRegisters_reads (s : State) :
    (resetRegisters s).reads = s.reads := rfl
@[simp] theorem resetRegisters_resetHeld (s : State) :
    (resetRegisters s).resetHeld = s.resetHeld := rfl
@[simp] theorem resetRegisters_gap (s : State) :
    (resetRegisters s).gap = s.gap := rfl
@[simp] theorem resetRegisters_draws (s : State) :
    (resetRegisters s).draws = s.draws := rfl

/-! ### Fields after using one sequencer step of the gap (R71) -/

@[simp] theorem useGap_config (s : State) :
    (useGap s).config = s.config := rfl
@[simp] theorem useGap_cells (s : State) :
    (useGap s).cells = s.cells := rfl
@[simp] theorem useGap_phase (s : State) :
    (useGap s).phase = s.phase := rfl
@[simp] theorem useGap_wcnt (s : State) :
    (useGap s).wcnt = s.wcnt := rfl
@[simp] theorem useGap_key (s : State) :
    (useGap s).key = s.key := rfl
@[simp] theorem useGap_iv (s : State) :
    (useGap s).iv = s.iv := rfl
@[simp] theorem useGap_ksData (s : State) :
    (useGap s).ksData = s.ksData := rfl
@[simp] theorem useGap_ksCount (s : State) :
    (useGap s).ksCount = s.ksCount := rfl
@[simp] theorem useGap_dataIn (s : State) :
    (useGap s).dataIn = s.dataIn := rfl
@[simp] theorem useGap_dataOut (s : State) :
    (useGap s).dataOut = s.dataOut := rfl
@[simp] theorem useGap_err (s : State) :
    (useGap s).err = s.err := rfl
@[simp] theorem useGap_host (s : State) :
    (useGap s).host = s.host := rfl
@[simp] theorem useGap_reads (s : State) :
    (useGap s).reads = s.reads := rfl
@[simp] theorem useGap_resetHeld (s : State) :
    (useGap s).resetHeld = s.resetHeld := rfl
@[simp] theorem useGap_gap (s : State) :
    (useGap s).gap = some (gapDue s - 1) := rfl
@[simp] theorem useGap_draws (s : State) :
    (useGap s).draws = drawsAfter s := rfl

/-! ### Fields after taking the host's next step (R71) -/

@[simp] theorem takeHostOp_config (rest : List HostOp) (s : State) :
    (takeHostOp rest s).config = s.config := rfl
@[simp] theorem takeHostOp_cells (rest : List HostOp) (s : State) :
    (takeHostOp rest s).cells = s.cells := rfl
@[simp] theorem takeHostOp_phase (rest : List HostOp) (s : State) :
    (takeHostOp rest s).phase = s.phase := rfl
@[simp] theorem takeHostOp_wcnt (rest : List HostOp) (s : State) :
    (takeHostOp rest s).wcnt = s.wcnt := rfl
@[simp] theorem takeHostOp_key (rest : List HostOp) (s : State) :
    (takeHostOp rest s).key = s.key := rfl
@[simp] theorem takeHostOp_iv (rest : List HostOp) (s : State) :
    (takeHostOp rest s).iv = s.iv := rfl
@[simp] theorem takeHostOp_ksData (rest : List HostOp) (s : State) :
    (takeHostOp rest s).ksData = s.ksData := rfl
@[simp] theorem takeHostOp_ksCount (rest : List HostOp) (s : State) :
    (takeHostOp rest s).ksCount = s.ksCount := rfl
@[simp] theorem takeHostOp_dataIn (rest : List HostOp) (s : State) :
    (takeHostOp rest s).dataIn = s.dataIn := rfl
@[simp] theorem takeHostOp_dataOut (rest : List HostOp) (s : State) :
    (takeHostOp rest s).dataOut = s.dataOut := rfl
@[simp] theorem takeHostOp_err (rest : List HostOp) (s : State) :
    (takeHostOp rest s).err = s.err := rfl
@[simp] theorem takeHostOp_host (rest : List HostOp) (s : State) :
    (takeHostOp rest s).host = rest := rfl
@[simp] theorem takeHostOp_reads (rest : List HostOp) (s : State) :
    (takeHostOp rest s).reads = s.reads := rfl
@[simp] theorem takeHostOp_resetHeld (rest : List HostOp) (s : State) :
    (takeHostOp rest s).resetHeld = s.resetHeld := rfl
@[simp] theorem takeHostOp_gap (rest : List HostOp) (s : State) :
    (takeHostOp rest s).gap = none := rfl
@[simp] theorem takeHostOp_draws (rest : List HostOp) (s : State) :
    (takeHostOp rest s).draws = if s.phase = .setup then drawsAfter s else s.draws := rfl

/-! ### Fields after the load step of INIT (R152) -/

@[simp] theorem loadEngine_config (s : State) :
    (loadEngine s).config = s.config := rfl
@[simp] theorem loadEngine_cells (s : State) :
    (loadEngine s).cells = load s.key s.iv := rfl
@[simp] theorem loadEngine_phase (s : State) :
    (loadEngine s).phase = if s.config.warmup = 0 then .ready else .setup := rfl
@[simp] theorem loadEngine_wcnt (s : State) :
    (loadEngine s).wcnt = 0 := rfl
@[simp] theorem loadEngine_key (s : State) :
    (loadEngine s).key = s.key := rfl
@[simp] theorem loadEngine_iv (s : State) :
    (loadEngine s).iv = s.iv := rfl
@[simp] theorem loadEngine_ksData (s : State) :
    (loadEngine s).ksData = 0 := rfl
@[simp] theorem loadEngine_ksCount (s : State) :
    (loadEngine s).ksCount = 0 := rfl
@[simp] theorem loadEngine_dataIn (s : State) :
    (loadEngine s).dataIn = s.dataIn := rfl
@[simp] theorem loadEngine_dataOut (s : State) :
    (loadEngine s).dataOut = 0 := rfl
@[simp] theorem loadEngine_err (s : State) :
    (loadEngine s).err = .none := rfl
@[simp] theorem loadEngine_host (s : State) :
    (loadEngine s).host = s.host := rfl
@[simp] theorem loadEngine_reads (s : State) :
    (loadEngine s).reads = s.reads := rfl
@[simp] theorem loadEngine_resetHeld (s : State) :
    (loadEngine s).resetHeld = s.resetHeld := rfl
@[simp] theorem loadEngine_gap (s : State) :
    (loadEngine s).gap = s.gap := rfl
@[simp] theorem loadEngine_draws (s : State) :
    (loadEngine s).draws = s.draws := rfl

/-! ### Fields after one sequencer step (R153) -/

@[simp] theorem seqStep_config (s : State) :
    (seqStep s).config = s.config := rfl
@[simp] theorem seqStep_cells (s : State) :
    (seqStep s).cells = fwd s.cells := rfl
@[simp] theorem seqStep_phase (s : State) :
    (seqStep s).phase = if s.wcnt + 1 = s.config.warmup then .ready else s.phase := rfl
@[simp] theorem seqStep_wcnt (s : State) :
    (seqStep s).wcnt = s.wcnt + 1 := rfl
@[simp] theorem seqStep_key (s : State) :
    (seqStep s).key = s.key := rfl
@[simp] theorem seqStep_iv (s : State) :
    (seqStep s).iv = s.iv := rfl
@[simp] theorem seqStep_ksData (s : State) :
    (seqStep s).ksData = s.ksData := rfl
@[simp] theorem seqStep_ksCount (s : State) :
    (seqStep s).ksCount = s.ksCount := rfl
@[simp] theorem seqStep_dataIn (s : State) :
    (seqStep s).dataIn = s.dataIn := rfl
@[simp] theorem seqStep_dataOut (s : State) :
    (seqStep s).dataOut = s.dataOut := rfl
@[simp] theorem seqStep_err (s : State) :
    (seqStep s).err = s.err := rfl
@[simp] theorem seqStep_host (s : State) :
    (seqStep s).host = s.host := rfl
@[simp] theorem seqStep_reads (s : State) :
    (seqStep s).reads = s.reads := rfl
@[simp] theorem seqStep_resetHeld (s : State) :
    (seqStep s).resetHeld = s.resetHeld := rfl
@[simp] theorem seqStep_gap (s : State) :
    (seqStep s).gap = s.gap := rfl
@[simp] theorem seqStep_draws (s : State) :
    (seqStep s).draws = s.draws := rfl

/-! ### Fields after a read of the port (R69) -/

@[simp] theorem readAccess_config (r : PortReg) (s : State) :
    (readAccess r s).config = s.config := rfl
@[simp] theorem readAccess_cells (r : PortReg) (s : State) :
    (readAccess r s).cells = s.cells := rfl
@[simp] theorem readAccess_phase (r : PortReg) (s : State) :
    (readAccess r s).phase = s.phase := rfl
@[simp] theorem readAccess_wcnt (r : PortReg) (s : State) :
    (readAccess r s).wcnt = s.wcnt := rfl
@[simp] theorem readAccess_key (r : PortReg) (s : State) :
    (readAccess r s).key = s.key := rfl
@[simp] theorem readAccess_iv (r : PortReg) (s : State) :
    (readAccess r s).iv = s.iv := rfl
@[simp] theorem readAccess_ksData (r : PortReg) (s : State) :
    (readAccess r s).ksData = s.ksData := rfl
@[simp] theorem readAccess_ksCount (r : PortReg) (s : State) :
    (readAccess r s).ksCount = s.ksCount := rfl
@[simp] theorem readAccess_dataIn (r : PortReg) (s : State) :
    (readAccess r s).dataIn = s.dataIn := rfl
@[simp] theorem readAccess_dataOut (r : PortReg) (s : State) :
    (readAccess r s).dataOut = s.dataOut := rfl
@[simp] theorem readAccess_err (r : PortReg) (s : State) :
    (readAccess r s).err = s.err := rfl
@[simp] theorem readAccess_host (r : PortReg) (s : State) :
    (readAccess r s).host = s.host := rfl
@[simp] theorem readAccess_reads (r : PortReg) (s : State) :
    (readAccess r s).reads = s.reads ++ [readReg r s] := rfl
@[simp] theorem readAccess_resetHeld (r : PortReg) (s : State) :
    (readAccess r s).resetHeld = s.resetHeld := rfl
@[simp] theorem readAccess_gap (r : PortReg) (s : State) :
    (readAccess r s).gap = s.gap := rfl
@[simp] theorem readAccess_draws (r : PortReg) (s : State) :
    (readAccess r s).draws = s.draws := rfl

/-! ### Fields after placing a command word -/

@[simp] theorem placeCommand_config (v : Word) (s : State) :
    (placeCommand v s).config = s.config := rfl
@[simp] theorem placeCommand_cells (v : Word) (s : State) :
    (placeCommand v s).cells = s.cells := rfl
@[simp] theorem placeCommand_phase (v : Word) (s : State) :
    (placeCommand v s).phase = s.phase := rfl
@[simp] theorem placeCommand_wcnt (v : Word) (s : State) :
    (placeCommand v s).wcnt = s.wcnt := rfl
@[simp] theorem placeCommand_key (v : Word) (s : State) :
    (placeCommand v s).key = s.key := rfl
@[simp] theorem placeCommand_iv (v : Word) (s : State) :
    (placeCommand v s).iv = s.iv := rfl
@[simp] theorem placeCommand_ksData (v : Word) (s : State) :
    (placeCommand v s).ksData = s.ksData := rfl
@[simp] theorem placeCommand_ksCount (v : Word) (s : State) :
    (placeCommand v s).ksCount = s.ksCount := rfl
@[simp] theorem placeCommand_dataIn (v : Word) (s : State) :
    (placeCommand v s).dataIn = s.dataIn := rfl
@[simp] theorem placeCommand_dataOut (v : Word) (s : State) :
    (placeCommand v s).dataOut = s.dataOut := rfl
@[simp] theorem placeCommand_err (v : Word) (s : State) :
    (placeCommand v s).err = s.err := rfl
@[simp] theorem placeCommand_host (v : Word) (s : State) :
    (placeCommand v s).host = .memWrite 0 4 v :: s.host := rfl
@[simp] theorem placeCommand_reads (v : Word) (s : State) :
    (placeCommand v s).reads = s.reads := rfl
@[simp] theorem placeCommand_resetHeld (v : Word) (s : State) :
    (placeCommand v s).resetHeld = false := rfl
@[simp] theorem placeCommand_gap (v : Word) (s : State) :
    (placeCommand v s).gap = some 0 := rfl
@[simp] theorem placeCommand_draws (v : Word) (s : State) :
    (placeCommand v s).draws = s.draws := rfl

end Sys2Proof.Machine
end

