-- ==== Sys2Proof/Laws/Ops.lean ====
section
/-! SUPPORT. For each shared operation of Machine/Ops.lean, everything it can do. -/

namespace Sys2Proof.Machine

variable {s t : State}

theorem unlessBusy_setup (h : s.phase = .setup) (go : Result) :
    unlessBusy s go = .next (raiseError .busy s) := if_pos h

theorem unlessBusy_idle (h : s.phase ≠ .setup) (go : Result) : unlessBusy s go = go := if_neg h

/-- What a command that may be BUSY can answer as a next state. -/
theorem unlessBusy_cases {go : Result} (h : unlessBusy s go = .next t) :
    (s.phase = .setup ∧ t = raiseError .busy s) ∨ (s.phase ≠ .setup ∧ go = .next t) := by
  by_cases hp : s.phase = .setup
  · rw [unlessBusy_setup hp] at h
    exact .inl ⟨hp, (Host.Outcome.next.inj h).symm⟩
  · rw [unlessBusy_idle hp] at h
    exact .inr ⟨hp, h⟩

/-- GEN, XOR or INV in READY with a count in range. -/
theorem engineCommand_ready {n : Int} (hp : s.phase = .ready) (hn : countOk n) (go : Nat → State) :
    engineCommand n s go = .next (go n.toNat) := by
  rw [engineCommand, unlessBusy_idle (by simp [hp]), if_neg (by simp [hp]), if_pos hn]

/-- Everything GEN, XOR or INV can answer: always a next state, one of these four (R233). -/
theorem engineCommand_answers (n : Int) (s : State) (go : Nat → State) :
    (s.phase = .setup ∧ engineCommand n s go = .next (raiseError .busy s)) ∨
    (s.phase = .empty ∧ engineCommand n s go = .next (raiseError .noEngine s)) ∨
    (s.phase = .ready ∧ ¬ countOk n ∧ engineCommand n s go = .next (raiseError .invalidRequest s)) ∨
    (s.phase = .ready ∧ countOk n ∧ engineCommand n s go = .next (go n.toNat)) := by
  cases hp : s.phase with
  | setup => exact .inl ⟨rfl, unlessBusy_setup hp _⟩
  | empty => exact .inr (.inl ⟨rfl, by rw [engineCommand, unlessBusy_idle (by simp [hp]), if_pos hp]⟩)
  | ready =>
    by_cases hn : countOk n
    · exact .inr (.inr (.inr ⟨rfl, hn, engineCommand_ready hp hn go⟩))
    · refine .inr (.inr (.inl ⟨rfl, hn, ?_⟩))
      rw [engineCommand, unlessBusy_idle (by simp [hp]), if_neg (by simp [hp]), if_neg hn]

/-- What GEN, XOR or INV can answer as a next state. -/
theorem engineCommand_cases {n : Int} {go : Nat → State} (h : engineCommand n s go = .next t) :
    (∃ e, t = raiseError e s) ∨ (s.phase = .ready ∧ countOk n ∧ t = go n.toNat) := by
  obtain ⟨-, e⟩ | ⟨-, e⟩ | ⟨-, -, e⟩ | ⟨hp, hn, e⟩ := engineCommand_answers n s go <;>
    rw [e] at h <;> cases h
  · exact .inl ⟨_, rfl⟩
  · exact .inl ⟨_, rfl⟩
  · exact .inl ⟨_, rfl⟩
  · exact .inr ⟨hp, hn, rfl⟩

/-- GEN, XOR and INV always answer a next state. -/
theorem engineCommand_next (n : Int) (s : State) (go : Nat → State) : ∃ t, engineCommand n s go = .next t := by
  obtain ⟨-, e⟩ | ⟨-, e⟩ | ⟨-, -, e⟩ | ⟨-, -, e⟩ := engineCommand_answers n s go <;> exact ⟨_, e⟩

/-- An illegal word answers a next state with its error and nothing else (R96). -/
theorem illegalCommand_answers (s : State) :
    illegalCommand s =
      .next (raiseError (if s.phase = .setup then .busy else .illegalCommand) s) := by
  by_cases hp : s.phase = .setup
  · rw [illegalCommand, unlessBusy_setup hp, if_pos hp]
  · rw [illegalCommand, unlessBusy_idle hp, if_neg hp]

/-- The sequencer moves first only in SETUP with a step of the gap left (R71, R153). -/
theorem sequencerFirst_iff : sequencerFirst s = true ↔ s.phase = .setup ∧ gapDue s ≠ 0 := by
  simp [sequencerFirst]

end Sys2Proof.Machine
end

