-- ==== Sys2Proof/Laws/Exec.lean ====
section
/-! SUPPORT. What each meaning, and so `exec`, can answer. -/

namespace Sys2Proof.Machine

variable {s t : State}

/-! ### Each arm of `exec` over its shared operation -/

theorem exec_init (klen ivlen : Nat) (s : State) : exec (.init klen ivlen) s = execInit klen ivlen s := rfl

theorem exec_gen (n : Int) (s : State) :
    exec (.gen n) s = engineCommand n s fun m => recordBits (ksRun m s.cells) m s := rfl

theorem exec_xor (n : Int) (s : State) :
    exec (.xor n) s =
      engineCommand n s fun m => { recordBits (ksRun m s.cells) m s with dataOut := xorData m s } := rfl

theorem exec_inv (n : Int) (s : State) :
    exec (.inv n) s = engineCommand n s fun m => recordBits (invRun m s.cells) m s := rfl

/-! ### What they answer -/

/-- Everything INIT can answer (R150, R151, R233). -/
theorem execInit_answers (klen ivlen : Nat) (s : State) :
    (s.phase = .setup ∧ execInit klen ivlen s = .next (raiseError .busy s)) ∨
    (s.phase ≠ .setup ∧ ¬ lengthsOk klen ivlen ∧
      execInit klen ivlen s = .next (raiseError .invalidLength s)) ∨
    (s.phase ≠ .setup ∧ lengthsOk klen ivlen ∧ execInit klen ivlen s = .next (loadEngine s)) := by
  by_cases hp : s.phase = .setup
  · exact .inl ⟨hp, unlessBusy_setup hp _⟩
  · by_cases hl : lengthsOk klen ivlen
    · exact .inr (.inr ⟨hp, hl, by rw [execInit, unlessBusy_idle hp, if_pos hl]⟩)
    · exact .inr (.inl ⟨hp, hl, by rw [execInit, unlessBusy_idle hp, if_neg hl]⟩)

/-- Every command answers a next state: its effect or an error (R234). -/
theorem exec_next (i : Instr) (s : State) : ∃ t, exec i s = .next t := by
  cases i with
  | init k l =>
    obtain ⟨-, e⟩ | ⟨-, -, e⟩ | ⟨-, -, e⟩ := execInit_answers k l s <;> exact ⟨_, e⟩
  | gen n => rw [exec_gen]; exact engineCommand_next n s _
  | xor n => rw [exec_xor]; exact engineCommand_next n s _
  | inv n => rw [exec_inv]; exact engineCommand_next n s _

/-- What a command does when it succeeds. -/
inductive Succeeds : Instr → State → State → Prop
  | init {klen ivlen : Nat} {s : State} (hp : s.phase ≠ .setup) (hl : lengthsOk klen ivlen) :
      Succeeds (.init klen ivlen) s (loadEngine s)
  | gen {n : Int} {s : State} (hp : s.phase = .ready) (hn : countOk n) :
      Succeeds (.gen n) s (recordBits (ksRun n.toNat s.cells) n.toNat s)
  | xor {n : Int} {s : State} (hp : s.phase = .ready) (hn : countOk n) :
      Succeeds (.xor n) s
        { recordBits (ksRun n.toNat s.cells) n.toNat s with dataOut := xorData n.toNat s }
  | inv {n : Int} {s : State} (hp : s.phase = .ready) (hn : countOk n) :
      Succeeds (.inv n) s (recordBits (invRun n.toNat s.cells) n.toNat s)

/-- A command answers a next state: an error and nothing else, or its own effect (R231, R232). -/
theorem exec_cases {i : Instr} (h : exec i s = .next t) :
    (∃ e, t = raiseError e s) ∨ Succeeds i s t := by
  cases i with
  | init klen ivlen =>
    obtain ⟨-, e⟩ | ⟨-, -, e⟩ | ⟨hp, hl, e⟩ := execInit_answers klen ivlen s <;>
      rw [exec, e] at h <;> cases h
    · exact .inl ⟨_, rfl⟩
    · exact .inl ⟨_, rfl⟩
    · exact .inr (.init hp hl)
  | gen n =>
    rw [exec_gen] at h
    obtain e | ⟨hp, hn, rfl⟩ := engineCommand_cases h
    · exact .inl e
    · exact .inr (.gen hp hn)
  | xor n =>
    rw [exec_xor] at h
    obtain e | ⟨hp, hn, rfl⟩ := engineCommand_cases h
    · exact .inl e
    · exact .inr (.xor hp hn)
  | inv n =>
    rw [exec_inv] at h
    obtain e | ⟨hp, hn, rfl⟩ := engineCommand_cases h
    · exact .inl e
    · exact .inr (.inv hp hn)

end Sys2Proof.Machine
end

