-- ==== Sys2Proof/Laws/Operands.lean ====
section
/-! SUPPORT. The staging registers bit by bit (10_state.md R25, R26). -/

namespace Sys2Proof.Machine

/-- Bit `i` of a field, counted from its most significant end, is the register's bit at that distance from the field's
first bit. -/
theorem getMsbD_extract {w : Nat} (x : BitVec w) (lo len i : Nat) (h : lo + len ≤ w) :
    (x.extractLsb' lo len).getMsbD i = (decide (i < len) && x.getMsbD (w - lo - len + i)) := by
  by_cases hi : i < len
  · have h1 : lo + (len - 1 - i) = w - 1 - (w - lo - len + i) := by omega
    have h2 : len - 1 - i < len := by omega
    have h3 : w - lo - len + i < w := by omega
    simp only [BitVec.getMsbD, BitVec.getLsbD_extractLsb', h1, h2, h3, hi, decide_true, Bool.true_and]
  · simp [BitVec.getMsbD, hi]

/-- A staging register is its bits. -/
theorem staged_ext {r q : Bits80} (h : ∀ i, i < 80 → stagedBit r i = stagedBit q i) : r = q :=
  BitVec.eq_of_getMsbD_eq fun i hi => h i hi

theorem stagedBit_setStaged0 (v : Word) (r : Bits80) (i : Nat) (hi : i < 80) :
    stagedBit (setStaged0 v r) i = if i < 32 then v.getMsbD i else stagedBit r i := by
  rw [stagedBit, setStaged0, getMsbD_concat, getMsbD_extract _ _ _ _ (by omega)]
  split_ifs
  · rfl
  · exact guarded_eq (by omega) (congrArg r.getMsbD (by omega))

theorem stagedBit_setStaged1 (v : Word) (r : Bits80) (i : Nat) (hi : i < 80) :
    stagedBit (setStaged1 v r) i =
      if 32 ≤ i ∧ i < 64 then v.getMsbD (i - 32) else stagedBit r i := by
  rw [stagedBit, setStaged1, getMsbD_concat, getMsbD_concat, getMsbD_extract _ _ _ _ (by omega),
    getMsbD_extract _ _ _ _ (by omega)]
  split_ifs <;> first | omega | rfl | exact guarded_eq (by omega) (congrArg r.getMsbD (by omega))

theorem stagedBit_setStaged2 (v : Word) (r : Bits80) (i : Nat) (hi : i < 80) :
    stagedBit (setStaged2 v r) i = if 64 ≤ i then v.getMsbD (i - 48) else stagedBit r i := by
  rw [stagedBit, setStaged2, getMsbD_concat, getMsbD_extract _ _ _ _ (by omega),
    getMsbD_extract _ _ _ _ (by omega)]
  split_ifs <;> first
    | omega
    | exact guarded_eq (by omega) (congrArg _ (by omega))

theorem getMsbD_stagedWord0 (r : Bits80) (i : Nat) (hi : i < 32) :
    (stagedWord0 r).getMsbD i = stagedBit r i := by
  rw [stagedWord0, getMsbD_extract _ _ _ _ (by omega)]
  exact guarded_eq hi (congrArg r.getMsbD (by omega))

theorem getMsbD_stagedWord1 (r : Bits80) (i : Nat) (hi : i < 32) :
    (stagedWord1 r).getMsbD i = stagedBit r (32 + i) := by
  rw [stagedWord1, getMsbD_extract _ _ _ _ (by omega)]
  exact guarded_eq hi (congrArg r.getMsbD (by omega))

/-- KEY2 and IV2: the reserved half reads 0 (R25). -/
theorem getMsbD_stagedWord2 (r : Bits80) (i : Nat) (hi : i < 32) :
    (stagedWord2 r).getMsbD i = if i < 16 then false else stagedBit r (48 + i) := by
  rw [stagedWord2, getMsbD_concat, getMsbD_extract _ _ _ _ (by omega)]
  split_ifs
  · simp
  · exact guarded_eq (by omega) (congrArg r.getMsbD (by omega))

end Sys2Proof.Machine
end

