-- ==== Sys2Proof/Laws/PerInstr.lean ====
section
/-! SUPPORT. One statement about every command as syntax: its word has the fixed bits of its row of
spec/opcode_table.json (30_encoding.md R94). -/

namespace Sys2Proof.Laws.FixedBits

/-- The mask of a command's row: the opcode and reserved bits (R94). -/
def mask : Instr → Word
  | .init _ _ => 0xFF0000FF#32
  | .gen _ | .xor _ | .inv _ => 0xFFFF00FF#32

/-- The match of a command's row (R94). -/
def pattern : Instr → Word
  | .init _ _ => 0x00000001#32
  | .gen _ => 0x00000002#32
  | .xor _ => 0x00000003#32
  | .inv _ => 0x00000004#32

/-- The word of a command has its row's fixed bits, whatever its operands. -/
def Statement (i : Instr) : Prop := encode i &&& mask i = pattern i

/-- The fixed bits of a word of format I. -/
theorem encodeI_fixed (klen ivlen : Nat) : encodeI klen ivlen &&& 0xFF0000FF#32 = 0x00000001#32 := by
  apply BitVec.eq_of_getLsbD_eq
  intro i hi
  rw [BitVec.getLsbD_and, getLsbD_encodeI]
  interval_cases i <;> simp

/-- The fixed bits of a word of format N. -/
theorem encodeN_fixed (opc : BitVec 4) (n : Int) :
    encodeN opc n &&& 0xFFFF00FF#32 = 0#28 ++ opc := by
  apply BitVec.eq_of_getLsbD_eq
  intro i hi
  rw [BitVec.getLsbD_and, getLsbD_encodeN, getLsbD_concat]
  interval_cases i <;> simp

theorem init (klen ivlen : Nat) : Statement (.init klen ivlen) := encodeI_fixed klen ivlen

theorem gen (n : Int) : Statement (.gen n) := encodeN_fixed 0x2#4 n

theorem xor (n : Int) : Statement (.xor n) := encodeN_fixed 0x3#4 n

theorem inv (n : Int) : Statement (.inv n) := encodeN_fixed 0x4#4 n

end Sys2Proof.Laws.FixedBits
end

