-- ==== Sys2Proof/Laws/Port.lean ====
section
/-! SUPPORT. What an access to the register port can do. -/

namespace Sys2Proof.Machine

variable {s t : State}

theorem admitAccess_held (h : s.resetHeld = true) (off width : Nat) (go : PortReg → Result) :
    admitAccess off width s go = .refused .accessDuringReset := if_pos h

/-- A word access inside the port, with reset released, is performed (R60, R62). -/
theorem admitAccess_word {w : Nat} (h : s.resetHeld = false) (hw : w < 32) (go : PortReg → Result) :
    admitAccess (4 * w) 4 s go = go (regAt w) := by
  have h4 : 4 * w / 4 = w := by omega
  have hw' : ¬ Config.portWords ≤ w := by simp only [Config.portWords]; omega
  rw [admitAccess, h4, if_neg (by simp [h]), if_neg (by simp), if_neg hw']

/-- An access that is performed is a word access inside the port with reset released. -/
theorem admitAccess_cases {off width : Nat} {go : PortReg → Result}
    (h : admitAccess off width s go = .next t) :
    s.resetHeld = false ∧ width = 4 ∧ ∃ w, w < 32 ∧ off = 4 * w ∧ go (regAt w) = .next t := by
  unfold admitAccess at h
  split_ifs at h with h1 h2 h3
  refine ⟨by simpa using h1, by omega, off / 4, ?_, by omega, h⟩
  simp only [Config.portWords] at h3
  omega

/-- What a write to CMD can answer (R96). -/
theorem writeCmd_cases {v : Word} (h : writeCmd v s = .next t) :
    (∃ e, t = raiseError e s) ∨ ∃ i, decode v = .instr i ∧ Succeeds i s t := by
  unfold writeCmd at h
  split at h
  · rename_i i hd
    obtain e | hs := exec_cases h
    · exact .inl e
    · exact .inr ⟨i, hd, hs⟩
  · rw [illegalCommand_answers] at h
    exact .inl ⟨_, (Host.Outcome.next.inj h).symm⟩

/-- What a write to the port can do: a command, a staging register or DATA_IN, or nothing (R64, R69). -/
inductive Writes : Word → State → State → Prop
  | failed {v : Word} {s : State} (e : ErrCode) : Writes v s (raiseError e s)
  | command {v : Word} {s t : State} {i : Instr} (hd : decode v = .instr i) (hs : Succeeds i s t) :
      Writes v s t
  | key {v : Word} {s : State} (k : Bits80) : Writes v s { s with key := k }
  | iv {v : Word} {s : State} (k : Bits80) : Writes v s { s with iv := k }
  | dataIn {v : Word} {s : State} : Writes v s { s with dataIn := v }
  | ignored {v : Word} {s : State} : Writes v s s

theorem writeReg_cases {r : PortReg} {v : Word} (h : writeReg r v s = .next t) : Writes v s t := by
  cases r with
  | cmd =>
    obtain ⟨e, rfl⟩ | ⟨i, hd, hs⟩ := writeCmd_cases h
    · exact .failed e
    · exact .command hd hs
  | key0 | key1 | key2 => cases h; exact .key _
  | iv0 | iv1 | iv2 => cases h; exact .iv _
  | dataIn => cases h; exact .dataIn
  | status | param | ksData | dataOut | window | reserved => cases h; exact .ignored

/-- Every write to a register answers a next state (R251). -/
theorem writeReg_next (r : PortReg) (v : Word) (s : State) : ∃ t, writeReg r v s = .next t := by
  cases r with
  | cmd =>
    simp only [writeReg, writeCmd]
    split
    · exact exec_next _ s
    · exact ⟨_, illegalCommand_answers s⟩
  | _ => exact ⟨_, rfl⟩

end Sys2Proof.Machine
end

