-- ==== Sys2Proof/Laws/Step.lean ====
section
/-! SUPPORT. Everything one step of the machine can do (60_exceptions.md R250). -/

namespace Sys2Proof.Machine

variable {s t : State}

/-- A step of the host or of the reset input. -/
inductive HostMoves : HostOp → State → State → Prop
  | read {s : State} (w : Nat) (hw : w < 32) (hr : s.resetHeld = false) :
      HostMoves (.memRead (4 * w) 4) s (readAccess (regAt w) s)
  | write {s t : State} {v : Word} (w : Nat) (hw : w < 32) (hr : s.resetHeld = false)
      (h : writeReg (regAt w) v s = .next t) : HostMoves (.memWrite (4 * w) 4 v) s t
  | applyReset {s : State} : HostMoves .applyReset s { resetRegisters s with resetHeld := true }
  | releaseReset {s : State} : HostMoves .releaseReset s { s with resetHeld := false }

theorem hostStep_cases {op : HostOp} (h : hostStep op s = .next t) : HostMoves op s t := by
  cases op with
  | memRead off width =>
    rw [hostStep] at h
    obtain ⟨hr, rfl, w, hw, rfl, hg⟩ := admitAccess_cases h
    cases hg
    exact .read w hw hr
  | memWrite off width v =>
    rw [hostStep] at h
    obtain ⟨hr, rfl, w, hw, rfl, hg⟩ := admitAccess_cases h
    exact .write w hw hr hg
  | applyReset => cases h; exact .applyReset
  | releaseReset => cases h; exact .releaseReset

/-- One step that answers a next state: nothing moves, the sequencer moves, or the host moves. -/
theorem step_cases (h : step s = .next t) :
    (s.host = [] ∧ s.phase ≠ .setup ∧ t = s) ∨
    (s.host = [] ∧ s.phase = .setup ∧ t = seqStep s) ∨
    (s.host ≠ [] ∧ s.phase = .setup ∧ gapDue s ≠ 0 ∧ t = seqStep (useGap s)) ∨
    ∃ op rest, s.host = op :: rest ∧ sequencerFirst s = false ∧ HostMoves op (takeHostOp rest s) t := by
  unfold step agentStep at h
  split at h
  · rename_i hh
    split_ifs at h with hp
    · exact .inr (.inl ⟨hh, hp, (Host.Outcome.next.inj h).symm⟩)
    · exact .inl ⟨hh, hp, (Host.Outcome.next.inj h).symm⟩
  · rename_i op rest hh
    split_ifs at h with hq
    · obtain ⟨hp, hg⟩ := sequencerFirst_iff.1 hq
      exact .inr (.inr (.inl ⟨by simp [hh], hp, hg, (Host.Outcome.next.inj h).symm⟩))
    · exact .inr (.inr (.inr ⟨op, rest, hh, by simpa using hq, hostStep_cases h⟩))

/-! ### Runs of several steps -/

theorem run_zero (s : State) : Sys2Proof.core.run 0 s = .next s := rfl

/-- A run whose first step answers a next state goes on from there. -/
theorem run_succ_of_step (h : step s = .next t) (k : Nat) :
    Sys2Proof.core.run (k + 1) s = Sys2Proof.core.run k t := by
  have hc : Sys2Proof.core.step s = .next t := h
  simp only [Host.Core.run, hc]

end Sys2Proof.Machine
end

