-- ==== Sys2Proof/Tests/Slice0.lean ====
section
/-! SUPPORT. Tests: ill-formed commands, words written out from the spec's encodings, one-step vectors of
95_test_vectors.md, and for every statement with hypotheses a state that meets them. -/

open Sys2Proof Sys2Proof.Machine

namespace Sys2Proof.Tests

/-! ### Small states -/

/-- The state after one step, where it answers one. -/
def after (s : State) : State :=
  match step s with
  | .next t => t
  | _ => s

/-- `s` with one host step waiting and the host's turn. -/
def ask (op : HostOp) (s : State) : State := { s with host := [op], gap := some 0 }

/-- `s` with a command word waiting. -/
def cmd (v : Word) (s : State) : State := ask (.memWrite 0 4 v) s

/-- LOAD_A of 95_test_vectors.md, from its nine words. -/
def loadA : Cells :=
  0x0123456789ABCDEF12340000091A2B3C4D5E6F7891A00000000000000000000000000007#288

/-- READY_A of 95_test_vectors.md, from its nine words. -/
def readyCells : Cells :=
  0xF2C830078F7CEB8A559813D53A4C21649C98BF153ADC0AA5198A14BD61551787D2A1A2DD#288

/-- Vector A staged, no engine. -/
def staged : State :=
  { State.reset with key := 0x0123456789ABCDEF1234#80, iv := 0x0123456789ABCDEF1234#80 }

/-- Vector A in READY. -/
def readyA : State := { staged with cells := readyCells, phase := .ready, wcnt := 1152 }

/-- Vector A at the start of SETUP. -/
def setupA : State := { staged with cells := loadA, phase := .setup }

/-- SETUP with one clock to go. -/
def lastClock : State := { setupA with wcnt := 1151 }

/-! ### Well-formedness: one ill-formed command for each check, and the ends of each range (R98) -/

theorem test_wf_klen : (Instr.init 256 80).wellFormed = false := by decide
theorem test_wf_ivlen : (Instr.init 80 256).wellFormed = false := by decide
theorem test_wf_gen_high : (Instr.gen 128).wellFormed = false := by decide
theorem test_wf_gen_low : (Instr.gen (-129)).wellFormed = false := by decide
theorem test_wf_xor_high : (Instr.xor 128).wellFormed = false := by decide
theorem test_wf_xor_low : (Instr.xor (-129)).wellFormed = false := by decide
theorem test_wf_inv_high : (Instr.inv 128).wellFormed = false := by decide
theorem test_wf_inv_low : (Instr.inv (-129)).wellFormed = false := by decide
theorem test_wf_ends :
    (Instr.init 255 255).wellFormed = true ∧ (Instr.gen (-128)).wellFormed = true ∧
      (Instr.xor 127).wellFormed = true ∧ (Instr.inv 0).wellFormed = true := by decide

/-! ### Words written out bit by bit from R91, R92 and R94 -/

theorem test_decode_init : -- reserved 0, IVLEN 80, KLEN 79, reserved 0, OPC 1
    decode 0b00000000010100000100111100000001#32 = .instr (.init 79 80) := by decide
theorem test_decode_gen : -- reserved 0, N = -1, reserved 0, OPC 2
    decode 0b00000000000000001111111100000010#32 = .instr (.gen (-1)) := by decide
theorem test_decode_xor : -- reserved 0, N = 8, reserved 0, OPC 3
    decode 0b00000000000000000000100000000011#32 = .instr (.xor 8) := by decide
theorem test_decode_inv : -- reserved 0, N = 32, reserved 0, OPC 4
    decode 0b00000000000000000010000000000100#32 = .instr (.inv 32) := by decide
theorem test_decode_reserved_opcodes :
    [0x0, 0x5, 0x6, 0x7, 0x8, 0x9, 0xA, 0xB, 0xC, 0xD, 0xE, 0xF].all
      (fun k => decode (BitVec.ofNat 32 k) == .illegal .reservedOpcode) = true := by decide
theorem test_decode_reserved_bits :
    [0x00505011, 0x01505001, 0x00012002, 0x00002012, 0x80002002].all
      (fun k => decode (BitVec.ofNat 32 k) == .illegal .reservedBits) = true := by decide
theorem test_table_word : decodeTableWord 32 0x00505001 = some (.init 80 80) := by decide

/-! ### The clocks (V1, V3, V7) -/

theorem test_forward_of_zero_load : -- V1
    fwd (load 0 0) = 0x3#288 ∧ outBit (load 0 0) = true := by decide +kernel
theorem test_forward_of_ones : -- V3
    fwd (BitVec.allOnes 288) =
      0x7FFFFFFFFFFFFFFFFFFFFFFBFFFFFFFFFFFFFFFFFFFFBFFFFFFFFFFFFFFFFFFFFFFFFFFF#288 := by
  decide +kernel
theorem test_inverse_of_ones : -- V3
    invClock (BitVec.allOnes 288) =
      0xFFFFFFFFFFFFFFFFFFFFFFF7FFFFFFFFFFFFFFFFFFFF7FFFFFFFFFFFFFFFFFFFFFFFFFFE#288 := by
  decide +kernel

/-! ### One step of each command -/

theorem test_init_loads : -- V10
    (after (cmd 0x00505001#32 staged)).cells = loadA ∧
      statusWord (after (cmd 0x00505001#32 staged)) = 0x00000005#32 := by decide +kernel
theorem test_init_bad_length : -- V20, last row: an engine in READY survives
    statusWord (after (cmd 0x00504F01#32 { readyA with ksCount := 32 })) = 0x00002012#32 ∧
      (after (cmd 0x00504F01#32 readyA)).cells = readyCells := by decide +kernel
theorem test_gen_32 : -- V12, V15
    (after (cmd 0x00002002#32 readyA)).ksData = 0x53B14230#32 ∧
      (after (cmd 0x00002002#32 readyA)).cells =
        0x78D79919F2C830078F7CEB8D95842CCD3A4C21649C98A32F8B390AA5198A14BD61551787#288 := by
  decide +kernel
theorem test_gen_33 : -- V20
    statusWord (after (cmd 0x00002102#32 readyA)) = 0x00000022#32 := by decide +kernel
theorem test_xor_32 : -- V16
    (after (cmd 0x00002003#32 { readyA with dataIn := 0xFFFFFFFF#32 })).dataOut = 0xAC4EBDCF#32 := by
  decide +kernel
theorem test_xor_without_engine : -- V19
    statusWord (after (cmd 0x00000103#32 State.reset)) = 0x00000030#32 := by decide +kernel
theorem test_inv_1 : -- V17
    (after (cmd 0x00000104#32 readyA)).ksData = 0x80000000#32 ∧
      (after (cmd 0x00000104#32 readyA)).cells =
        0xE590600F1EF9D714AB3027A2749842C939317E2A75B8154A3314297AC2AA2F0FA54345BB#288 := by
  decide +kernel
theorem test_inv_during_setup : -- V11 with the word of INV 1
    statusWord (after (cmd 0x00000104#32 setupA)) = 0x00000045#32 := by decide +kernel

/-! ### The sequencer, the port and reset -/

theorem test_sequencer_step : -- V10
    (after setupA).cells =
        0x0091A2B3C4D5E6F7891A0004048D159E26AF37BC48D00000000000000000000000000003#288 ∧
      statusWord (after setupA) = 0x00000005#32 := by decide +kernel
theorem test_last_sequencer_step : (after lastClock).phase = .ready := by decide +kernel
theorem test_warmup_zero_build : -- V21
    statusWord (after (cmd 0x00505001#32 { staged with config := ⟨0⟩ })) = 0x00000002#32 ∧
      readReg .param { staged with config := ⟨0⟩ } = 0 := by decide +kernel
theorem test_key2_discards : -- V9
    (after (ask (.memWrite 0x18 4 0xFFFFFFFF#32) State.reset)).key = 0xFFFF#80 := by decide +kernel
theorem test_param_reads : -- V9
    (after (ask (.memRead 0x08 4) State.reset)).reads = [0x00000480#32] := by decide +kernel
theorem test_window_of_loadA : -- V9
    readReg (regAt 18) setupA = 0x12340000#32 ∧ readReg (regAt 24) setupA = 0x00000007#32 := by
  decide +kernel
theorem test_reset_during_setup : -- V22
    (after (ask .applyReset setupA)).phase = .empty ∧ (after (ask .applyReset setupA)).cells = 0 := by
  decide +kernel
theorem test_first_command_after_reset : -- V19: GEN 0 finds no engine
    step (State.reset.withFetchWord 32 2) =
      .next { State.reset with err := .noEngine } := rfl

/-! ### Pseudo-instructions (R99) -/

theorem test_setkey : -- R66's example, and I4: 19 digits produce nothing
    setKey [0, 1, 2, 3, 4, 5, 6, 7, 8, 9, 10, 11, 12, 13, 14, 15, 1, 2, 3, 4] =
        some [.memWrite 0x10 4 0x01234567#32, .memWrite 0x14 4 0x89ABCDEF#32, .memWrite 0x18 4 0x00001234#32] ∧
      setIv [0, 1, 2, 3, 4, 5, 6, 7, 8, 9, 10, 11, 12, 13, 14, 15, 1, 2, 3] = none := by decide +kernel
theorem test_cmd_line : -- R98
    cmdLine (.gen (-1)) = some (.memWrite 0 4 0x0000FF02#32) ∧ cmdLine (.gen 128) = none := by decide +kernel

/-! ### Witnesses: every statement's hypotheses, all met together -/

theorem witness_PortAccessIsOneStep :
    (31 < 32 ∧ readyA.resetHeld = false ∧
      HostTurn (ask (.memRead (4 * 31) 4) readyA) (.memRead (4 * 31) 4) []) ∧
    HostTurn (ask (.memWrite (4 * 0) 4 2) setupA) (.memWrite (4 * 0) 4 2) [] := by decide +kernel

theorem witness_NonWordAccessIsRefused :
    (readyA.resetHeld = false ∧ (2 ≠ 4 ∨ 0 % 4 ≠ 0) ∧ HostTurn (ask (.memRead 0 2) readyA) (.memRead 0 2) []) ∧
    ((4 ≠ 4 ∨ 3 % 4 ≠ 0) ∧ HostTurn (ask (.memWrite 3 4 0) setupA) (.memWrite 3 4 0) []) := by
  decide +kernel

theorem witness_AccessOutsidePortFaults :
    (readyA.resetHeld = false ∧ 128 % 4 = 0 ∧ 0x7C < 128) ∧
    HostTurn (ask (.memRead 128 4) readyA) (.memRead 128 4) [] ∧
    HostTurn (ask (.memWrite 128 4 0) setupA) (.memWrite 128 4 0) [] := by decide +kernel

theorem witness_ReservedWordsReadZeroIgnoreWrites :
    (3 = 3 ∨ 3 = 7 ∨ 3 = 11 ∨ 3 = 15 ∨ (25 ≤ 3 ∧ 3 ≤ 31)) ∧ readyA.resetHeld = false ∧
    HostTurn (ask (.memRead (4 * 3) 4) readyA) (.memRead (4 * 3) 4) [] ∧
    (31 = 3 ∨ 31 = 7 ∨ 31 = 11 ∨ 31 = 15 ∨ (25 ≤ 31 ∧ 31 ≤ 31)) ∧
    HostTurn (ask (.memWrite (4 * 31) 4 7) setupA) (.memWrite (4 * 31) 4 7) [] := by decide +kernel

theorem witness_ReadOnlyAndStoredBits :
    writeReg (regAt 4) 5 staged = .next { staged with key := setStaged0 5 staged.key } ∧
    writeReg (regAt 6) 5 staged = .next { staged with key := setStaged2 5 staged.key } ∧
    writeReg (regAt 13) 5 staged = .next { staged with dataIn := 5 } ∧
    step (ask (.memWrite 0x28 4 5) readyA) = .next (after (ask (.memWrite 0x28 4 5) readyA)) ∧
    readReg (regAt 10) (after (ask (.memWrite 0x28 4 5) readyA)) ≠
      readReg (regAt 10) (ask (.memWrite 0x28 4 5) readyA) := ⟨rfl, rfl, rfl, rfl, by decide +kernel⟩

theorem witness_ThreeWritesStageTheString :
    (List.replicate 20 (5#4)).length = 20 ∧ (List.replicate 21 (5#4)).length ≠ 20 ∧ 19 < 20 ∧ 3 < 4 := by decide

theorem witness_StateWindowShowsTheCells :
    ∀ k, k ≤ 8 → readReg (regAt (16 + k)) readyA = readReg (regAt (16 + k)) { readyA with wcnt := 0 } :=
  fun k _ => by unfold regAt; split <;> rfl

theorem witness_ParamShowsTheWarmupCount :
    State.reset.config.warmup < 65536 ∧ State.reset.config.warmup = 1152 := by decide

theorem witness_PackPutsTheFirstBitAtTheTop : (List.replicate 32 true).length ≤ 32 ∧ 32 ≤ 32 := by decide

theorem witness_RegisterHasOnlyItsWriters_sequencer :
    step setupA = .next (after setupA) ∧ (after setupA).cells ≠ setupA.cells := ⟨rfl, by decide +kernel⟩

theorem witness_RegisterHasOnlyItsWriters_reset :
    step (ask .applyReset readyA) = .next (after (ask .applyReset readyA)) ∧
      (after (ask .applyReset readyA)).cells ≠ readyA.cells := ⟨rfl, by decide +kernel⟩

theorem witness_RegisterHasOnlyItsWriters_command :
    step (cmd 0x00000104#32 readyA) = .next (after (cmd 0x00000104#32 readyA)) ∧
      (after (cmd 0x00000104#32 readyA)).cells ≠ readyA.cells := ⟨rfl, by decide +kernel⟩

theorem witness_SequencerRegistersHaveOnlyTheirWriters :
    step lastClock = .next (after lastClock) ∧ (after lastClock).phase ≠ lastClock.phase ∧
      (after lastClock).wcnt ≠ lastClock.wcnt := ⟨rfl, by decide +kernel⟩

theorem witness_DataRegistersHaveOnlyTheirWriters_key :
    step (ask (.memWrite 0x14 4 1) readyA) = .next (after (ask (.memWrite 0x14 4 1) readyA)) ∧
      (after (ask (.memWrite 0x14 4 1) readyA)).key ≠ readyA.key := ⟨rfl, by decide +kernel⟩

theorem witness_DataRegistersHaveOnlyTheirWriters_iv :
    step (ask (.memWrite 0x24 4 1) readyA) = .next (after (ask (.memWrite 0x24 4 1) readyA)) ∧
      (after (ask (.memWrite 0x24 4 1) readyA)).iv ≠ readyA.iv := ⟨rfl, by decide +kernel⟩

theorem witness_DataRegistersHaveOnlyTheirWriters_dataIn :
    step (ask (.memWrite 0x34 4 1) readyA) = .next (after (ask (.memWrite 0x34 4 1) readyA)) ∧
      (after (ask (.memWrite 0x34 4 1) readyA)).dataIn ≠ readyA.dataIn := ⟨rfl, by decide +kernel⟩

theorem witness_DataRegistersHaveOnlyTheirWriters_results :
    step (cmd 0x00002003#32 readyA) = .next (after (cmd 0x00002003#32 readyA)) ∧
      (after (cmd 0x00002003#32 readyA)).ksData ≠ readyA.ksData ∧
      (after (cmd 0x00002003#32 readyA)).dataOut ≠ readyA.dataOut := ⟨rfl, by decide +kernel⟩

theorem witness_ErrIsWrittenByCommandsAlone :
    (readyA.resetHeld = false ∧ HostTurn (cmd 0 readyA) (.memWrite 0 4 0) []) ∧
    step (cmd 0 readyA) = .next (after (cmd 0 readyA)) ∧ (after (cmd 0 readyA)).err ≠ readyA.err :=
  ⟨by decide +kernel, rfl, by decide +kernel⟩

theorem witness_OperandsAreTheFields :
    decode 0x00515001#32 = .instr (.init 80 81) ∧ decode 0x00007F02#32 = .instr (.gen 127) ∧
      decode 0x00008003#32 = .instr (.xor (-128)) ∧ decode 0x0000FF04#32 = .instr (.inv (-1)) := by decide

theorem witness_ReservedBitsMakeAWordIllegal :
    ((0x00505011#32).extractLsb' 0 4 = 1#4 ∧ (0x00505011#32).extractLsb' 4 4 ≠ 0#4) ∧
    ((0x80000001#32).extractLsb' 0 4 = 1#4 ∧ (0x80000001#32).extractLsb' 24 8 ≠ 0#8) ∧
    ((0x00002082#32).extractLsb' 0 4 = 2#4 ∧ (0x00002082#32).extractLsb' 4 4 ≠ 0#4) ∧
    ((0x00012004#32).extractLsb' 0 4 = 4#4 ∧ (0x00012004#32).extractLsb' 16 16 ≠ 0#16) := by decide

theorem witness_DecodeOfEncodeIsTheCommand :
    (Instr.init 255 0).wellFormed = true ∧ (Instr.gen (-128)).wellFormed = true ∧
      (Instr.xor 127).wellFormed = true ∧ (Instr.inv 32).wellFormed = true := by decide

theorem witness_EncodeOfDecodeIsTheWord :
    decode 0x00FF0001#32 = .instr (.init 0 255) ∧ decode 0x00008004#32 = .instr (.inv (-128)) := by decide

theorem witness_AssemblerGivesTheStatedWords :
    (255 ≤ 255 ∧ 0 ≤ 255) ∧ ((-128 : Int) ≤ -128 ∧ (127 : Int) ≤ 127) ∧ (255 < 256 ∨ 255 < 0) ∧
      ((-129 : Int) < -128 ∨ (127 : Int) < -129) := by decide

theorem witness_StepRunsTheDecodedCommand :
    (HostTurn (cmd 0x00000803#32 readyA) (.memWrite 0 4 0x00000803#32) [] ∧ readyA.resetHeld = false ∧
      decode 0x00000803#32 = .instr (.xor 8)) ∧
    decodeTableWord 32 0x00000803 = some (.xor 8) := by decide +kernel

theorem witness_FailedCommandChangesOnlyErr :
    writeReg (regAt 0) 0x00002102#32 readyA = .next { readyA with err := .invalidRequest } ∧
      ErrCode.invalidRequest ≠ .none := ⟨rfl, by decide⟩

theorem witness_InitLoadsTheEngine : staged.phase ≠ .setup ∧ readyA.phase ≠ .setup := by decide

theorem witness_InitChecksBothLengths :
    staged.phase ≠ .setup ∧ (79 ≠ 80 ∨ 80 ≠ 80) ∧ (80 ≠ 80 ∨ 81 ≠ 80) := by decide

theorem witness_CommandsWithoutAReadyEngine :
    setupA.phase = .setup ∧ staged.phase = .empty ∧
      ∀ klen ivlen, Instr.gen (-1) ≠ .init klen ivlen :=
  ⟨rfl, rfl, fun _ _ h => Instr.noConfusion h⟩

theorem witness_SequencerStepIsOneForwardClock :
    (setupA.phase = .setup ∧ setupA.host = []) ∧
    (gapDue { cmd 2 setupA with gap := some 1 } ≠ 0) ∧ (readyA.phase ≠ .setup ∧ readyA.host = []) := by
  decide +kernel

theorem witness_WarmupEndsAfterTheStatedClocks :
    setupA.phase = .setup ∧ setupA.host = [] ∧ setupA.wcnt + 1152 = setupA.config.warmup ∧ 0 < 1152 ∧
      1151 < 1152 := by decide +kernel

theorem witness_EveryInterleavingIsARun :
    setupA.phase = .setup ∧ (cmd 2 setupA).host = .memWrite 0 4 2 :: [] ∧
      setupA.wcnt + 1152 = setupA.config.warmup ∧ 0 < 1152 ∧ 0 ≤ 1152 ∧ 1152 ≤ 1152 ∧
      ({ setupA with host := [.memWrite 0 4 2] } : State).gap = none := by decide +kernel

theorem witness_WarmupCannotBeHeldUp :
    (setupA.phase = .setup ∧ setupA.wcnt < setupA.config.warmup ∧ step setupA = .next (after setupA) ∧
      (after setupA).phase = .setup) ∧
    (step (ask .applyReset setupA) = .next (after (ask .applyReset setupA)) ∧
      (after (ask .applyReset setupA)).phase = .empty) :=
  ⟨⟨rfl, by decide +kernel, rfl, by decide +kernel⟩, rfl, by decide +kernel⟩

/-- Vector A staged in a test build of one warm-up clock. -/
def oneClock : State := { staged with config := ⟨1⟩ }

/-- Its engine right after INIT. -/
def oneClockSetup : State := { oneClock with cells := loadA, phase := .setup }

theorem witness_WarmupTracksTheLoadedState :
    oneClock.phase ≠ .setup ∧ exec (.init 80 80) oneClock = .next oneClockSetup ∧
      (AfterInit 0 oneClockSetup oneClockSetup ∧ oneClockSetup.phase = .setup) ∧
      (AfterInit 1 oneClockSetup (after oneClockSetup) ∧ (after oneClockSetup).phase = .ready) :=
  ⟨by decide, rfl, ⟨⟨rfl, fun _ _ h => absurd h (Nat.not_lt_zero _)⟩, rfl⟩,
    ⟨rfl, fun j w hj hw => by
      obtain rfl : j = 0 := by omega
      cases hw
      rfl⟩, by decide +kernel⟩

/-- A read in READY is a step that is no command and no reset. -/
theorem witness_WarmupTracksTheLoadedState_ready :
    readyA.phase = .ready ∧
      step (ask (.memRead 4 4) readyA) = .next (after (ask (.memRead 4 4) readyA)) ∧
      (∀ v, ¬ HostTook (ask (.memRead 4 4) readyA) (.memWrite 0 4 v)) ∧
      ¬ HostTook (ask (.memRead 4 4) readyA) .applyReset :=
  ⟨rfl, rfl, fun _ ⟨_, h, _⟩ => (nomatch h), fun ⟨_, h, _⟩ => (nomatch h)⟩

theorem witness_SetupIsDeterministic :
    oneClock.key = ({ oneClock with dataIn := 1 } : State).key ∧
      exec (.init 80 80) { oneClock with dataIn := 1 } = .next { oneClockSetup with dataIn := 1 } ∧
      AfterInit 1 { oneClockSetup with dataIn := 1 } (after { oneClockSetup with dataIn := 1 }) ∧
      (after { oneClockSetup with dataIn := 1 }).phase = .ready :=
  ⟨rfl, rfl, ⟨rfl, fun j w hj hw => by
      obtain rfl : j = 0 := by omega
      cases hw
      rfl⟩, by decide +kernel⟩

theorem witness_counts :
    readyA.phase = .ready ∧ ((0 : Int) ≤ 0 ∧ (0 : Int) ≤ 32) ∧ ((0 : Int) ≤ 32 ∧ (32 : Int) ≤ 32) ∧
      ((-1 : Int) < 0 ∨ 32 < (-1 : Int)) ∧ ((33 : Int) < 0 ∨ 32 < (33 : Int)) := by decide

/-- The hypotheses of GEN's statement: `witness_counts` says them of READY with counts 0, 32, -1 and 33. -/
theorem witness_GenGivesTheNextBits : readyA.phase = .ready ∧ (0 : Int) ≤ 32 ∧ (32 : Int) ≤ 32 := by decide

theorem witness_GenZeroPerformsNoClock : readyA.phase = .ready := rfl

theorem witness_XorCombinesWithKeystream : readyA.phase = .ready ∧ (0 : Int) ≤ 0 ∧ (0 : Int) ≤ 32 := by decide

theorem witness_InvRunsTheRegisterBackwards : readyA.phase = .ready ∧ (0 : Int) ≤ 1 ∧ (1 : Int) ≤ 32 := by decide

/-- One XOR's output is the next one's input, at the same register. -/
theorem witness_XorTwiceGivesTheDataBack :
    readyA.phase = .ready ∧ (0 : Int) ≤ 0 ∧ (0 : Int) ≤ 32 ∧
      exec (.xor 0) readyA = .next { readyA with ksData := 0, ksCount := 0, dataOut := 0, err := .none } ∧
      ({ readyA with dataIn := 0 } : State).dataIn = 0 := ⟨rfl, by decide, by decide, rfl, rfl⟩

theorem witness_LongRequestIsTheGenLoop : readyA.phase = .ready ∧ 32 ≤ 32 ∧ 1 ≤ 32 := by decide

theorem witness_ResultsDependOnRegisterAndData :
    readyA.phase = .ready ∧ ({ readyA with key := 0 } : State).cells = readyA.cells ∧
      (0 : Int) ≤ 0 ∧ (0 : Int) ≤ 32 ∧
      exec (.gen 0) readyA = .next { readyA with ksData := 0, ksCount := 0, err := .none } ∧
      exec (.gen 0) { readyA with key := 0 } =
        .next { readyA with key := 0, ksData := 0, ksCount := 0, err := .none } :=
  ⟨rfl, rfl, by decide, by decide, rfl, rfl⟩

theorem witness_EngineCommandsIgnoreStaging : Instr.gen 32 = .gen 32 ∧ Instr.inv (-1) = .inv (-1) := by decide

theorem witness_RunningBackRecoversTheKey : readyA.phase = .ready ∧ 79 < 80 := by decide

theorem witness_InvAndGenRoundTrip : readyA.phase = .ready ∧ 0 ≤ 32 ∧ 32 ≤ 32 := by decide

theorem witness_CommandsLeaveTheRestAlone :
    exec (.gen 0) readyA = .next { readyA with ksData := 0, ksCount := 0, err := .none } ∧
      (∀ klen ivlen, Instr.gen 0 ≠ .init klen ivlen) ∧ (∀ n, Instr.gen 0 ≠ .xor n) ∧
      (2 < 32 ∧ 2 ≠ 1 ∧ 2 ≠ 12 ∧ 2 ≠ 14 ∧ ¬ (16 ≤ 2 ∧ 2 ≤ 24)) :=
  ⟨rfl, fun _ _ h => Instr.noConfusion h, fun _ h => Instr.noConfusion h, by decide⟩

theorem witness_ResetGivesEveryRegisterItsValue :
    HostTurn (ask .applyReset setupA) .applyReset [] ∧
      (let held : State := { State.reset with resetHeld := true }
       held.resetHeld = true ∧ HostTurn (ask (.memRead 4 4) held) (.memRead 4 4) [] ∧
         HostTurn (ask (.memWrite 0 4 2) held) (.memWrite 0 4 2) []) := by decide +kernel

/-- An engine in READY whose host stages another IV and key, the IV first, and writes INIT 80, 80. -/
def rekeyed : State :=
  { readyA with host := (ivWrites 1 ++ keyWrites 2) ++ [.memWrite 0 4 0x00505001#32] }

theorem witness_BootReachesTheWarmedEngine :
    rekeyed.phase ≠ .setup ∧ rekeyed.resetHeld = false ∧
      (ivWrites 1 ++ keyWrites 2).Perm (keyWrites 2 ++ ivWrites 1) ∧
      rekeyed.host = (ivWrites 1 ++ keyWrites 2) ++ [.memWrite 0 4 0x00505001#32] ∧ rekeyed.host.length = 7 :=
  ⟨by decide, rfl, List.perm_append_comm, rfl, rfl⟩

theorem witness_ReleasingResetChangesNoRegister :
    HostTurn (ask .releaseReset State.reset) .releaseReset [] := by decide +kernel

theorem witness_DutifulHostNeverStops :
    ({ readyA with host := [.memWrite 0 4 2, .memRead 0x7C 4, .applyReset, .releaseReset] } : State).dutifulHost := by
  decide +kernel

theorem witness_EveryStepKeepsTheInvariant :
    (setupA.Inv ∧ step setupA = .next (after setupA)) ∧
    ((cmd 0x00002002#32 readyA).Inv ∧
      step (cmd 0x00002002#32 readyA) = .next (after (cmd 0x00002002#32 readyA))) :=
  ⟨⟨by decide +kernel, rfl⟩, by decide +kernel, rfl⟩

theorem witness_StatusIsAlwaysLegal : readyA.Inv := by decide +kernel

theorem witness_bit_positions : -- the bounded indexes of the statements about single bits, at their ends
    (8 ≤ 8 ∧ 31 ≤ 31) ∧ (3 < 4 ∧ 7 < 8) ∧ (65 ≤ 65) ∧ (1 ≤ 92 ∧ 94 ≤ 176 ∧ 178 ≤ 287) ∧
      (79 ≤ 79 ∧ 80 ≤ 92 ∧ 173 ≤ 284 ∧ 285 ≤ 287) := by decide

end Sys2Proof.Tests
end

/-! ### The fields of STATUS (10_state.md R33) -/

namespace Sys2Proof.Machine

variable (s : State)

@[simp] theorem statusWord_phase : (statusWord s).extractLsb' 0 2 = phaseCode s.phase :=
  BitVec.extractLsb'_append_eq_right

theorem statusWord_busy : (statusWord s).getLsbD 2 = busyFlag s := by
  rw [statusWord, getLsbD_concat, if_neg (by decide), getLsbD_concat, if_pos (by decide)]
  cases busyFlag s <;> rfl

theorem statusWord_bit3 : (statusWord s).getLsbD 3 = false := by
  rw [statusWord, getLsbD_concat, if_neg (by decide), getLsbD_concat, if_neg (by decide), getLsbD_concat,
    if_pos (by decide), BitVec.getLsbD_zero]

/-- A field of STATUS from bit 4 up is one of the reserved bits, KS_COUNT and ERR. -/
theorem statusWord_upper {start len : Nat} (h : 4 ≤ start) :
    (statusWord s).extractLsb' start len =
      (0#18 ++ s.ksCount ++ errCode s.err).extractLsb' (start - 4) len := by
  rw [statusWord, BitVec.extractLsb'_append_eq_of_le (by omega), BitVec.extractLsb'_append_eq_of_le (by omega),
    BitVec.extractLsb'_append_eq_of_le (by omega), Nat.sub_sub, Nat.sub_sub]

@[simp] theorem statusWord_err : (statusWord s).extractLsb' 4 4 = errCode s.err :=
  (statusWord_upper s (by decide)).trans BitVec.extractLsb'_append_eq_right

@[simp] theorem statusWord_ksCount : (statusWord s).extractLsb' 8 6 = s.ksCount := by
  rw [statusWord_upper s (by decide), BitVec.extractLsb'_append_eq_of_le (by decide)]
  exact BitVec.extractLsb'_append_eq_right

@[simp] theorem statusWord_reserved : (statusWord s).extractLsb' 14 18 = 0#18 := by
  rw [statusWord_upper s (by decide), BitVec.extractLsb'_append_eq_of_le (by decide)]
  exact BitVec.extractLsb'_append_eq_left

/-- Settles O10, from the fields of `statusWord` one by one. -/
theorem statusShowsItsFields : Obligations.StatusShowsItsFields := by
  refine ⟨fun s => ⟨?_, statusWord_busy s, statusWord_bit3 s, ?_, statusWord_ksCount s,
    statusWord_reserved s, fun _ => rfl⟩, by decide⟩
  · refine (statusWord_phase s).trans ?_
    cases s.phase <;> rfl
  · refine (statusWord_err s).trans ?_
    cases s.err <;> rfl

end Sys2Proof.Machine

/-! ### The staging registers at the port (10_state.md R25, R26) -/

namespace Sys2Proof.Machine

/-- Bit `31 - j` of a word is its bit `j` counted from the most significant end. -/
theorem getLsbD_eq_getMsbD_top (w : Word) {j : Nat} (hj : j < 32) : w.getLsbD (31 - j) = w.getMsbD j := by
  simp [BitVec.getMsbD_eq_getLsbD, hj]

section
variable {get : State → Bits80} {put : Bits80 → State → State} {w : Nat}

/-- A port word that reads and writes word 0 of a staging register. -/
theorem stagedAt_word0 (hread : ∀ s, readReg (regAt w) s = stagedWord0 (get s))
    (hwrite : ∀ v s, writeReg (regAt w) v s = .next (put (setStaged0 v (get s)) s)) :
    StagedAt get put w 0 32 31 := by
  refine fun s v => ⟨fun j hj => ?_, fun i hi => BitVec.getLsbD_of_ge _ _ hi, _, hwrite v s, fun i hi => ?_⟩
  · rw [hread, getLsbD_eq_getMsbD_top _ hj, getMsbD_stagedWord0 _ _ hj, Nat.zero_add]
  · rw [stagedBit_setStaged0 _ _ _ hi]
    by_cases h : i < 32
    · rw [if_pos h, if_pos (by omega), getLsbD_eq_getMsbD_top _ (by omega), Nat.sub_zero]
    · rw [if_neg h, if_neg (by omega)]

/-- A port word that reads and writes word 1 of a staging register. -/
theorem stagedAt_word1 (hread : ∀ s, readReg (regAt w) s = stagedWord1 (get s))
    (hwrite : ∀ v s, writeReg (regAt w) v s = .next (put (setStaged1 v (get s)) s)) :
    StagedAt get put w 32 32 31 := by
  refine fun s v => ⟨fun j hj => ?_, fun i hi => BitVec.getLsbD_of_ge _ _ hi, _, hwrite v s, fun i hi => ?_⟩
  · rw [hread, getLsbD_eq_getMsbD_top _ hj, getMsbD_stagedWord1 _ _ hj]
  · rw [stagedBit_setStaged1 _ _ _ hi]
    by_cases h : 32 ≤ i ∧ i < 64
    · rw [if_pos h, if_pos h, getLsbD_eq_getMsbD_top _ (by omega)]
    · rw [if_neg h, if_neg h]

/-- A port word that reads and writes word 2 of a staging register: its lower half holds the bits. -/
theorem stagedAt_word2 (hread : ∀ s, readReg (regAt w) s = stagedWord2 (get s))
    (hwrite : ∀ v s, writeReg (regAt w) v s = .next (put (setStaged2 v (get s)) s)) :
    StagedAt get put w 64 16 15 := by
  have hlow (x : Word) {j : Nat} (hj : j < 16) : x.getLsbD (15 - j) = x.getMsbD (16 + j) := by
    rw [← getLsbD_eq_getMsbD_top x (by omega), Nat.sub_add_eq]
  refine fun s v => ⟨fun j hj => ?_, fun i hi => ?_, _, hwrite v s, fun i hi => ?_⟩
  · rw [hread, hlow _ hj, getMsbD_stagedWord2 _ _ (by omega), if_neg (by omega), ← Nat.add_assoc]
  · rw [hread, stagedWord2, getLsbD_concat, if_neg (by omega), BitVec.getLsbD_zero]
  · rw [stagedBit_setStaged2 _ _ _ hi]
    by_cases h : 64 ≤ i
    · rw [if_pos h, if_pos ⟨h, hi⟩, hlow _ (by omega)]
      exact congrArg v.getMsbD (by omega)
    · rw [if_neg h, if_neg (by omega)]

end

/-- Settles O7, word by word; KEY and IV differ only in the field of the state. -/
theorem stagingRegistersHoldTheirBits : Obligations.StagingRegistersHoldTheirBits :=
  ⟨stagedAt_word0 (fun _ => rfl) fun _ _ => rfl, stagedAt_word1 (fun _ => rfl) fun _ _ => rfl,
    stagedAt_word2 (fun _ => rfl) fun _ _ => rfl, stagedAt_word0 (fun _ => rfl) fun _ _ => rfl,
    stagedAt_word1 (fun _ => rfl) fun _ _ => rfl, stagedAt_word2 (fun _ => rfl) fun _ _ => rfl, rfl, rfl⟩

end Sys2Proof.Machine

/-! ### What a step can do to the registers the core writes (10_state.md R23, R28 to R34)

KEY, IV and DATA_IN are the host's. The other registers change in a sequencer clock, a reset or a write to CMD. -/

namespace Sys2Proof.Machine

/-- The registers that the core writes, and the build's parameter, are the same in `t` as in `s`. -/
structure SameEngine (s t : State) : Prop where
  config : t.config = s.config
  cells : t.cells = s.cells
  phase : t.phase = s.phase
  wcnt : t.wcnt = s.wcnt
  ksData : t.ksData = s.ksData
  ksCount : t.ksCount = s.ksCount
  dataOut : t.dataOut = s.dataOut
  err : t.err = s.err

variable {s t : State}

/-- A write to any register but CMD leaves the registers of the core alone (R64, R69). -/
theorem SameEngine.of_writeReg {r : PortReg} {v : Word} (hr : r ≠ .cmd) (h : writeReg r v s = .next t) :
    SameEngine s t := by
  cases r with
  | cmd => exact absurd rfl hr
  | _ => cases h; exact ⟨rfl, rfl, rfl, rfl, rfl, rfl, rfl, rfl⟩

/-- CMD stands at word 0 alone (R61). -/
theorem regAt_eq_cmd_iff {w : Nat} : regAt w = .cmd ↔ w = 0 := by
  constructor
  · intro h
    unfold regAt at h
    split at h
    · rfl
    all_goals simp [ite_eq_iff] at h
  · rintro rfl
    rfl

/-- What a step can do to the registers of the core: nothing, a sequencer clock, a reset, or a command written to CMD
(R250). -/
theorem step_engine_cases (h : step s = .next t) :
    SameEngine s t ∨
    (s.phase = .setup ∧ (t = seqStep s ∨ t = seqStep (useGap s))) ∨
    (∃ rest, HostTurn s .applyReset rest ∧ t = { resetRegisters (takeHostOp rest s) with resetHeld := true }) ∨
    ∃ v rest, HostTurn s (.memWrite 0 4 v) rest ∧ writeCmd v (takeHostOp rest s) = .next t := by
  obtain ⟨-, -, rfl⟩ | ⟨-, hp, rfl⟩ | ⟨-, hp, -, rfl⟩ | ⟨op, rest, hhost, hturn, hmove⟩ := step_cases h
  · exact .inl ⟨rfl, rfl, rfl, rfl, rfl, rfl, rfl, rfl⟩
  · exact .inr (.inl ⟨hp, .inl rfl⟩)
  · exact .inr (.inl ⟨hp, .inr rfl⟩)
  cases hmove with
  | read w hw hr => exact .inl ⟨rfl, rfl, rfl, rfl, rfl, rfl, rfl, rfl⟩
  | releaseReset => exact .inl ⟨rfl, rfl, rfl, rfl, rfl, rfl, rfl, rfl⟩
  | applyReset => exact .inr (.inr (.inl ⟨rest, ⟨hhost, hturn⟩, rfl⟩))
  | @write _ _ v w hw hr hwrite =>
    by_cases hcmd : regAt w = .cmd
    · obtain rfl := regAt_eq_cmd_iff.1 hcmd
      exact .inr (.inr (.inr ⟨v, rest, ⟨hhost, hturn⟩, hwrite⟩))
    · exact .inl { SameEngine.of_writeReg hcmd hwrite with }

/-! ### The writers of the register S (R23) -/

/-- The two-stage formulas of the keystream clock give the forward clock's state (R124). -/
theorem ks_snd (S : Cells) : (ks S).2 = fwd S := by
  simp only [ks, fwd, tap1, tap2, tap3]
  congr 1 <;> exact congrArg (· ^^ _) (Bool.xor_right_comm _ _ _)

/-- `n` keystream clocks leave the state of `n` forward clocks (R130). -/
theorem ksRun_snd (n : Nat) (S : Cells) : (ksRun n S).2 = fwd^[n] S := by
  induction n generalizing S with
  | zero => rfl
  | succ n ih => rw [ksRun_succ, ih, ks_snd, Function.iterate_succ_apply]

/-- The loop of INV leaves the state of `n` inverse clocks (R210). -/
theorem invRun_snd (n : Nat) (S : Cells) : (invRun n S).2 = invClock^[n] S := by
  induction n generalizing S with
  | zero => rfl
  | succ n ih => rw [invRun_succ, ih, Function.iterate_succ_apply]

/-- The value a successful command gives S, with the count as a natural number (R152, R180, R183, R210). -/
theorem Succeeds.cells_cases {i : Instr} (h : Succeeds i s t) :
    (s.phase ≠ .setup ∧ i = .init 80 80 ∧ t.cells = load s.key s.iv) ∨
    (s.phase = .ready ∧ ∃ n : Nat, n ≤ 32 ∧
      (((i = .gen n ∨ i = .xor n) ∧ t.cells = fwd^[n] s.cells) ∨
        (i = .inv n ∧ t.cells = invClock^[n] s.cells))) := by
  have hnat {n : Int} (hn : countOk n) : ∃ m : Nat, m ≤ 32 ∧ n = m := by
    obtain ⟨hlow, hhigh⟩ := hn
    simp only [Config.nMax] at hhigh
    exact ⟨n.toNat, by omega, by omega⟩
  cases h with
  | init hp hl =>
    obtain ⟨rfl, rfl⟩ := hl
    exact .inl ⟨hp, rfl, rfl⟩
  | gen hp hn =>
    obtain ⟨m, hm, rfl⟩ := hnat hn
    exact .inr ⟨hp, m, hm, .inl ⟨.inl rfl, ksRun_snd m s.cells⟩⟩
  | xor hp hn =>
    obtain ⟨m, hm, rfl⟩ := hnat hn
    exact .inr ⟨hp, m, hm, .inl ⟨.inr rfl, ksRun_snd m s.cells⟩⟩
  | inv hp hn =>
    obtain ⟨m, hm, rfl⟩ := hnat hn
    exact .inr ⟨hp, m, hm, .inr ⟨rfl, invRun_snd m s.cells⟩⟩

/-- Settles O13: of the writers of the core's registers, a failed command leaves S alone and a successful one gives it
the value of `Succeeds.cells_cases`. -/
theorem registerHasOnlyItsWriters : Obligations.RegisterHasOnlyItsWriters := by
  intro s t h hne
  obtain hsame | ⟨hp, rfl | rfl⟩ | ⟨rest, hturn, rfl⟩ | ⟨v, rest, hturn, hcmd⟩ := step_engine_cases h
  · exact absurd hsame.cells hne
  · exact .inl ⟨hp, rfl, rfl⟩
  · exact .inl ⟨hp, rfl, rfl⟩
  · exact .inr (.inl ⟨⟨rest, hturn⟩, rfl⟩)
  obtain ⟨e, rfl⟩ | ⟨i, hd, hs⟩ := writeCmd_cases hcmd
  · exact absurd rfl hne
  refine .inr (.inr ⟨v, ⟨rest, hturn⟩, ?_⟩)
  simpa [hd] using hs.cells_cases

/-! ### The writers of ERR (R34, R233) -/

/-- The host's turn performs the waiting host step. -/
theorem step_of_hostTurn {op : HostOp} {rest : List HostOp} (h : HostTurn s op rest) :
    step s = hostStep op (takeHostOp rest s) := by
  obtain ⟨hhost, hturn⟩ := h
  simp only [step, agentStep, hhost, hturn, Bool.false_eq_true, if_false]

/-- The host's turn at a write to CMD, with reset released, is the write's dispatch (R96). -/
theorem step_of_hostTurn_cmd {v : Word} {rest : List HostOp} (hr : s.resetHeld = false)
    (h : HostTurn s (.memWrite 0 4 v) rest) : step s = writeCmd v (takeHostOp rest s) := by
  rw [step_of_hostTurn h]
  exact admitAccess_word (s := takeHostOp rest s) (w := 0) hr (by decide) fun r => writeReg r v _

/-- Outside SETUP the error of INIT is that of its lengths (R151). -/
theorem reportedError_init {p : Phase} (hp : p ≠ .setup) (klen ivlen : Nat) :
    reportedError (.instr (.init klen ivlen)) p = if lengthsOk klen ivlen then .none else .invalidLength := by
  cases p with
  | setup => exact absurd rfl hp
  | empty | ready => rfl

/-- An illegal word reports BUSY in SETUP and is illegal otherwise (R96). -/
theorem reportedError_illegal (why : Illegal) (p : Phase) :
    reportedError (.illegal why) p = if p = .setup then .busy else .illegalCommand := by
  cases p <;> rfl

/-- GEN, XOR and INV report the same errors (R233). -/
theorem reportedError_engine {i : Instr} {n : Int} (hi : i = .gen n ∨ i = .xor n ∨ i = .inv n) (p : Phase) :
    reportedError (.instr i) p = reportedError (.instr (.gen n)) p := by
  obtain rfl | rfl | rfl := hi <;> cases p <;> rfl

/-- GEN, XOR and INV answer a next state with their error, or NONE, in ERR, if their effect leaves NONE (R231, R232). -/
theorem engineCommand_err {i : Instr} {n : Int} (hi : i = .gen n ∨ i = .xor n ∨ i = .inv n) (s : State)
    {go : Nat → State} (hgo : ∀ m, (go m).err = .none) :
    ∃ t, engineCommand n s go = .next t ∧ t.err = reportedError (.instr i) s.phase := by
  rw [reportedError_engine hi]
  obtain ⟨hp, e⟩ | ⟨hp, e⟩ | ⟨hp, hn, e⟩ | ⟨hp, hn, e⟩ := engineCommand_answers n s go <;>
    refine ⟨_, e, ?_⟩ <;> rw [hp]
  · rfl
  · rfl
  · exact (if_neg hn).symm
  · exact (hgo _).trans (if_pos hn).symm

/-- Every command answers a next state with its error, or NONE, in ERR (R231, R232). -/
theorem exec_err (i : Instr) (s : State) :
    ∃ t, exec i s = .next t ∧ t.err = reportedError (.instr i) s.phase := by
  cases i with
  | init klen ivlen =>
    rw [exec_init]
    obtain ⟨hp, e⟩ | ⟨hp, hl, e⟩ | ⟨hp, hl, e⟩ := execInit_answers klen ivlen s <;> refine ⟨_, e, ?_⟩
    · rw [hp]
      rfl
    · exact ((reportedError_init hp klen ivlen).trans (if_neg hl)).symm
    · exact ((reportedError_init hp klen ivlen).trans (if_pos hl)).symm
  | gen n => rw [exec_gen]; exact engineCommand_err (.inl rfl) s fun _ => rfl
  | xor n => rw [exec_xor]; exact engineCommand_err (.inr (.inl rfl)) s fun _ => rfl
  | inv n => rw [exec_inv]; exact engineCommand_err (.inr (.inr rfl)) s fun _ => rfl

/-- Every write to CMD answers a next state with the first error that applies, or NONE, in ERR (R233). -/
theorem writeCmd_err (v : Word) (s : State) :
    ∃ t, writeCmd v s = .next t ∧ t.err = reportedError (decode v) s.phase := by
  unfold writeCmd
  cases decode v with
  | instr i => exact exec_err i s
  | illegal why => exact ⟨_, illegalCommand_answers s, (reportedError_illegal why s.phase).symm⟩

/-- Settles O16: the write's dispatch gives ERR, and no other writer of the core's registers but reset touches it. -/
theorem errIsWrittenByCommandsAlone : Obligations.ErrIsWrittenByCommandsAlone := by
  constructor
  · intro s rest v hr hturn
    rw [step_of_hostTurn_cmd hr hturn]
    exact writeCmd_err v (takeHostOp rest s)
  · intro s t h hne
    obtain hsame | ⟨-, rfl | rfl⟩ | ⟨rest, hturn, rfl⟩ | ⟨v, rest, hturn, -⟩ := step_engine_cases h
    · exact absurd hsame.err hne
    · exact absurd rfl hne
    · exact absurd rfl hne
    · exact .inr ⟨⟨rest, hturn⟩, rfl⟩
    · exact .inl ⟨v, rest, hturn⟩

end Sys2Proof.Machine

/-! ### The register map and the port's accesses (20_memory.md R60 to R63) -/

namespace Sys2Proof.Machine

/-- STATE0 .. STATE8 stand at words 16 .. 24 (R61). -/
theorem regAt_window {k : Nat} (hk : k ≤ 8) : regAt (16 + k) = .window k := by
  interval_cases k <;> rfl

/-- Above the window every word is reserved (R61). -/
theorem regAt_aboveWindow {w : Nat} (hw : 25 ≤ w) : regAt w = .reserved := by
  obtain ⟨k, rfl⟩ := Nat.exists_eq_add_of_le' hw
  exact if_neg (c := 16 ≤ k + 25 ∧ k + 25 ≤ 24) (t := .window (k + 25 - 16)) (by omega)

/-- The reserved words of R63. -/
theorem regAt_reserved {w : Nat} (hw : w = 3 ∨ w = 7 ∨ w = 11 ∨ w = 15 ∨ (25 ≤ w ∧ w ≤ 31)) :
    regAt w = .reserved := by
  obtain rfl | rfl | rfl | rfl | ⟨hlow, -⟩ := hw
  · rfl
  · rfl
  · rfl
  · rfl
  · exact regAt_aboveWindow hlow

/-- A named register stands at the offset of its word (R61, R99). -/
theorem portOffset_regAt {w : Nat} (h : regAt w ≠ .reserved) : portOffset (regAt w) = some (4 * w) := by
  have hw : w < 25 := Nat.lt_of_not_le fun hle => h (regAt_aboveWindow hle)
  revert h
  interval_cases w <;> decide

/-- No register but the reserved words stands at two words (R61). -/
theorem eq_of_regAt_eq {w w' : Nat} (hw : regAt w ≠ .reserved) (h : regAt w' = regAt w) : w' = w := by
  have hoff : some (4 * w') = some (4 * w) := by
    rw [← portOffset_regAt hw, ← portOffset_regAt (h ▸ hw), h]
  simpa using hoff

variable {s t : State}

/-- The host's turn at a word of the port, with reset released: a read of the register there (R60, R69). -/
theorem step_of_hostTurn_read {w : Nat} {rest : List HostOp} (hw : w < 32) (hr : s.resetHeld = false)
    (h : HostTurn s (.memRead (4 * w) 4) rest) : step s = .next (readAccess (regAt w) (takeHostOp rest s)) := by
  rw [step_of_hostTurn h]
  exact admitAccess_word (s := takeHostOp rest s) hr hw fun r => .next (readAccess r _)

/-- The host's turn at a word of the port, with reset released: a write to the register there (R60, R70). -/
theorem step_of_hostTurn_write {w : Nat} {v : Word} {rest : List HostOp} (hw : w < 32) (hr : s.resetHeld = false)
    (h : HostTurn s (.memWrite (4 * w) 4 v) rest) : step s = writeReg (regAt w) v (takeHostOp rest s) := by
  rw [step_of_hostTurn h]
  exact admitAccess_word (s := takeHostOp rest s) hr hw fun r => writeReg r v _

/-- Settles O5: both accesses are performed on the register `.reserved`. -/
theorem reservedWordsReadZeroIgnoreWrites : Obligations.ReservedWordsReadZeroIgnoreWrites := by
  intro s rest w hw hr
  have hw32 : w < 32 := by omega
  have hreg := regAt_reserved hw
  constructor
  · intro hturn
    rw [step_of_hostTurn_read hw32 hr hturn, hreg]
    rfl
  · intro v hturn
    rw [step_of_hostTurn_write hw32 hr hturn, hreg]
    rfl

end Sys2Proof.Machine

/-! ### The words of a staging register, read after a write (10_state.md R25, R26; 20_memory.md R64) -/

namespace Sys2Proof.Machine

variable (v : Word) (r : Bits80)

@[simp] theorem stagedWord0_setStaged0 : stagedWord0 (setStaged0 v r) = v :=
  BitVec.eq_of_getMsbD_eq fun i hi => by
    rw [getMsbD_stagedWord0 _ _ hi, stagedBit_setStaged0 _ _ _ (by omega), if_pos hi]

@[simp] theorem stagedWord0_setStaged1 : stagedWord0 (setStaged1 v r) = stagedWord0 r :=
  BitVec.eq_of_getMsbD_eq fun i hi => by
    rw [getMsbD_stagedWord0 _ _ hi, getMsbD_stagedWord0 _ _ hi, stagedBit_setStaged1 _ _ _ (by omega),
      if_neg (by omega)]

@[simp] theorem stagedWord0_setStaged2 : stagedWord0 (setStaged2 v r) = stagedWord0 r :=
  BitVec.eq_of_getMsbD_eq fun i hi => by
    rw [getMsbD_stagedWord0 _ _ hi, getMsbD_stagedWord0 _ _ hi, stagedBit_setStaged2 _ _ _ (by omega),
      if_neg (by omega)]

@[simp] theorem stagedWord1_setStaged0 : stagedWord1 (setStaged0 v r) = stagedWord1 r :=
  BitVec.eq_of_getMsbD_eq fun i hi => by
    rw [getMsbD_stagedWord1 _ _ hi, getMsbD_stagedWord1 _ _ hi, stagedBit_setStaged0 _ _ _ (by omega),
      if_neg (by omega)]

@[simp] theorem stagedWord1_setStaged1 : stagedWord1 (setStaged1 v r) = v :=
  BitVec.eq_of_getMsbD_eq fun i hi => by
    rw [getMsbD_stagedWord1 _ _ hi, stagedBit_setStaged1 _ _ _ (by omega), if_pos (by omega), Nat.add_sub_cancel_left]

@[simp] theorem stagedWord1_setStaged2 : stagedWord1 (setStaged2 v r) = stagedWord1 r :=
  BitVec.eq_of_getMsbD_eq fun i hi => by
    rw [getMsbD_stagedWord1 _ _ hi, getMsbD_stagedWord1 _ _ hi, stagedBit_setStaged2 _ _ _ (by omega),
      if_neg (by omega)]

@[simp] theorem stagedWord2_setStaged0 : stagedWord2 (setStaged0 v r) = stagedWord2 r :=
  BitVec.eq_of_getMsbD_eq fun i hi => by
    rw [getMsbD_stagedWord2 _ _ hi, getMsbD_stagedWord2 _ _ hi, stagedBit_setStaged0 _ _ _ (by omega),
      if_neg (by omega : ¬ 48 + i < 32)]

@[simp] theorem stagedWord2_setStaged1 : stagedWord2 (setStaged1 v r) = stagedWord2 r :=
  BitVec.eq_of_getMsbD_eq fun i hi => by
    rw [getMsbD_stagedWord2 _ _ hi, getMsbD_stagedWord2 _ _ hi]
    by_cases h : i < 16
    · rw [if_pos h, if_pos h]
    · rw [if_neg h, if_neg h, stagedBit_setStaged1 _ _ _ (by omega), if_neg (by omega)]

/-- KEY2 and IV2 keep the lower half of the written word and discard the upper (R64). -/
@[simp] theorem stagedWord2_setStaged2 : stagedWord2 (setStaged2 v r) = v &&& 0x0000FFFF#32 := by
  rw [stagedWord2, setStaged2, BitVec.extractLsb'_append_eq_right]
  apply BitVec.eq_of_toNat_eq
  refine (BitVec.toNat_append _ _).trans ?_
  simpa using (Nat.and_two_pow_sub_one_eq_mod v.toNat 16).symm

end Sys2Proof.Machine

/-! ### What a step can do to the registers the host writes (20_memory.md R64, R69) -/

namespace Sys2Proof.Machine

/-- The registers that the host writes are the same in `t` as in `s`. -/
structure SameStaging (s t : State) : Prop where
  key : t.key = s.key
  iv : t.iv = s.iv
  dataIn : t.dataIn = s.dataIn

/-- The words of KEY, IV and DATA_IN (R61). -/
abbrev StagingWord (w : Nat) : Prop := w = 4 ∨ w = 5 ∨ w = 6 ∨ w = 8 ∨ w = 9 ∨ w = 10 ∨ w = 13

variable {s t : State} {v : Word}

/-- What a word of KEY, IV or DATA_IN reads is a part of these registers. -/
theorem SameStaging.readReg_eq (h : SameStaging s t) {w : Nat} (hw : StagingWord w) :
    readReg (regAt w) t = readReg (regAt w) s := by
  obtain rfl | rfl | rfl | rfl | rfl | rfl | rfl := hw <;>
    simp only [regAt, readReg, h.key, h.iv, h.dataIn]

theorem regAt_staging_ne_reserved {w : Nat} (hw : StagingWord w) : regAt w ≠ .reserved := by
  obtain rfl | rfl | rfl | rfl | rfl | rfl | rfl := hw <;> decide

/-- No command writes a register of the host (R69). -/
theorem SameStaging.of_writeCmd (h : writeCmd v s = .next t) : SameStaging s t := by
  obtain ⟨e, rfl⟩ | ⟨i, -, hs⟩ := writeCmd_cases h
  · exact ⟨rfl, rfl, rfl⟩
  · cases hs <;> exact ⟨rfl, rfl, rfl⟩

/-- What a step can do to the registers of the host: nothing, a reset, or a write to a word other than CMD (R250). -/
theorem step_staging_cases (h : step s = .next t) :
    SameStaging s t ∨
    (∃ rest, HostTurn s .applyReset rest ∧ t = { resetRegisters (takeHostOp rest s) with resetHeld := true }) ∨
    ∃ w v rest, regAt w ≠ .cmd ∧ HostTurn s (.memWrite (4 * w) 4 v) rest ∧
      writeReg (regAt w) v (takeHostOp rest s) = .next t := by
  obtain ⟨-, -, rfl⟩ | ⟨-, -, rfl⟩ | ⟨-, -, -, rfl⟩ | ⟨op, rest, hhost, hturn, hmove⟩ := step_cases h
  · exact .inl ⟨rfl, rfl, rfl⟩
  · exact .inl ⟨rfl, rfl, rfl⟩
  · exact .inl ⟨rfl, rfl, rfl⟩
  cases hmove with
  | read | releaseReset => exact .inl ⟨rfl, rfl, rfl⟩
  | applyReset => exact .inr (.inl ⟨rest, ⟨hhost, hturn⟩, rfl⟩)
  | @write _ _ v w _ _ hwrite =>
    by_cases hcmd : regAt w = .cmd
    · rw [hcmd] at hwrite
      exact .inl { SameStaging.of_writeCmd hwrite with }
    · exact .inr (.inr ⟨w, v, rest, hcmd, ⟨hhost, hturn⟩, hwrite⟩)

/-- A write to a register other than CMD leaves what every other register reads (R64, R69). -/
theorem readReg_of_writeReg_other {r r' : PortReg} (hcmd : r' ≠ .cmd) (hne : r' ≠ r)
    (h : writeReg r' v s = .next t) : readReg r t = readReg r s := by
  cases r' with
  | cmd => exact absurd rfl hcmd
  | status | param | ksData | dataOut | window | reserved => cases h; rfl
  | dataIn =>
    cases h
    cases r with
    | dataIn => exact absurd rfl hne
    | _ => rfl
  | key0 | key1 | key2 =>
    cases h
    cases r with
    | key0 | key1 | key2 => simp [readReg] at hne ⊢
    | _ => rfl
  | iv0 | iv1 | iv2 =>
    cases h
    cases r with
    | iv0 | iv1 | iv2 => simp [readReg] at hne ⊢
    | _ => rfl

/-- The read-only words ignore a write (R64). -/
theorem writeReg_readOnly {w : Nat} (hw : w = 1 ∨ w = 2 ∨ w = 12 ∨ w = 14 ∨ (16 ≤ w ∧ w ≤ 24)) (v : Word)
    (s : State) : writeReg (regAt w) v s = .next s := by
  obtain rfl | rfl | rfl | rfl | ⟨hlow, hhigh⟩ := hw
  · rfl
  · rfl
  · rfl
  · rfl
  · obtain ⟨k, rfl⟩ := Nat.exists_eq_add_of_le hlow
    rw [regAt_window (by omega)]
    rfl

/-- A full word of KEY, IV or DATA_IN reads the value written (R64). -/
theorem readReg_of_writeReg_full {w : Nat} (hw : w = 4 ∨ w = 5 ∨ w = 8 ∨ w = 9 ∨ w = 13)
    (h : writeReg (regAt w) v s = .next t) : readReg (regAt w) t = v := by
  obtain rfl | rfl | rfl | rfl | rfl := hw <;> cases h <;> simp [regAt, readReg]

/-- KEY2 and IV2 read the lower half of the value written (R64). -/
theorem readReg_of_writeReg_half {w : Nat} (hw : w = 6 ∨ w = 10)
    (h : writeReg (regAt w) v s = .next t) : readReg (regAt w) t = v &&& 0x0000FFFF#32 := by
  obtain rfl | rfl := hw <;> cases h <;> exact stagedWord2_setStaged2 _ _

theorem readReg_staging_reset {w : Nat} (hw : StagingWord w) : readReg (regAt w) State.reset = 0 := by
  obtain rfl | rfl | rfl | rfl | rfl | rfl | rfl := hw <;> decide

/-- Settles O6: of the writers of KEY, IV and DATA_IN, reset leaves 0 and a write to another word leaves what the word
reads. -/
theorem readOnlyAndStoredBits : Obligations.ReadOnlyAndStoredBits := by
  refine ⟨fun s t v => ⟨fun w hw => writeReg_readOnly hw v s, rfl, fun w => readReg_of_writeReg_full,
    fun w => readReg_of_writeReg_half, rfl⟩, fun w hw => ⟨readReg_staging_reset hw, ?_⟩⟩
  intro s t h hne
  obtain hsame | ⟨rest, hturn, rfl⟩ | ⟨w', v, rest, hcmd, hturn, hwrite⟩ := step_staging_cases h
  · exact absurd (hsame.readReg_eq hw) hne
  · have hzero : SameStaging State.reset { resetRegisters (takeHostOp rest s) with resetHeld := true } :=
      ⟨rfl, rfl, rfl⟩
    exact .inl ⟨⟨rest, hturn⟩, (hzero.readReg_eq hw).trans (readReg_staging_reset hw)⟩
  · have htaken : SameStaging s (takeHostOp rest s) := ⟨rfl, rfl, rfl⟩
    by_cases hreg : regAt w' = regAt w
    · obtain rfl := eq_of_regAt_eq (regAt_staging_ne_reserved hw) hreg
      exact .inr ⟨v, rest, hturn⟩
    · exact absurd ((readReg_of_writeReg_other hcmd hreg hwrite).trans (htaken.readReg_eq hw)) hne

end Sys2Proof.Machine

/-! ### The string of 20 hex digits and its three writes (20_memory.md R66, 30_encoding.md R99) -/

namespace Sys2Proof.Machine

/-- A digit pushed in below: its four bits, then the bits that stood there. -/
theorem getLsbD_pushDigit (r : Bits80) (d : BitVec 4) {i : Nat} (hi : i < 80) :
    (r <<< 4 ||| d.setWidth 80).getLsbD i = if i < 4 then d.getLsbD i else r.getLsbD (i - 4) := by
  by_cases h : i < 4
  · simp [h, hi]
  · simp [h, hi, BitVec.getLsbD_of_ge d i (by omega), BitVec.getLsbD_eq_getElem (x := r) (i := i - 4) (by omega)]

/-- Digits pushed in from the last of a list to its first: digit `k` of the list holds bits `4k .. 4k+3`. -/
theorem getLsbD_foldr_pushDigit (digits : List (BitVec 4)) {k b : Nat} (hb : b < 4) (hk : 4 * k + b < 80) :
    (digits.foldr (fun d (r : Bits80) => r <<< 4 ||| d.setWidth 80) 0).getLsbD (4 * k + b) =
      (digits.getD k 0).getLsbD b := by
  induction digits generalizing k with
  | nil => simp
  | cons d digits ih =>
    rw [List.foldr_cons, getLsbD_pushDigit _ _ hk]
    cases k with
    | zero => rw [if_pos (by omega), Nat.mul_zero, Nat.zero_add, List.getD_cons_zero]
    | succ k =>
      have hbelow : 4 * (k + 1) + b - 4 = 4 * k + b := by omega
      rw [if_neg (by omega), hbelow, ih (by omega), List.getD_cons_succ]

/-- A string of 20 digits has a value, its first digit's most significant bit first (R66). -/
theorem hexBits_bits {digits : List (BitVec 4)} (h : digits.length = 20) :
    ∃ r, hexBits digits = some r ∧
      ∀ j b, j < 20 → b < 4 → stagedBit r (4 * j + b) = (digits.getD j 0).getLsbD (3 - b) := by
  refine ⟨_, if_pos h, fun j b hj hb => ?_⟩
  have hpos : 80 - 1 - (4 * j + b) = 4 * (19 - j) + (3 - b) := by omega
  have hdigit : digits.length - 1 - (19 - j) = j := by omega
  rw [stagedBit, BitVec.getMsbD_eq_getLsbD, decide_eq_true (by omega), Bool.true_and, hpos,
    List.foldl_eq_foldr_reverse, getLsbD_foldr_pushDigit _ (by omega) (by omega),
    List.getD_reverse _ (by omega), hdigit]

/-- Writing the three words of `r` leaves `r`, whatever the register held (R66). -/
theorem setStaged_stagedWords (r q : Bits80) :
    setStaged2 (stagedWord2 r) (setStaged1 (stagedWord1 r) (setStaged0 (stagedWord0 r) q)) = r := by
  refine staged_ext fun i hi => ?_
  rw [stagedBit_setStaged2 _ _ _ hi, stagedBit_setStaged1 _ _ _ hi, stagedBit_setStaged0 _ _ _ hi]
  by_cases h2 : 64 ≤ i
  · rw [if_pos h2, getMsbD_stagedWord2 _ _ (by omega), if_neg (by omega), Nat.add_sub_cancel' (by omega)]
  rw [if_neg h2]
  by_cases h1 : 32 ≤ i
  · rw [if_pos (by omega), getMsbD_stagedWord1 _ _ (by omega), Nat.add_sub_cancel' h1]
  · rw [if_neg (by omega), if_pos (by omega), getMsbD_stagedWord0 _ _ (by omega)]

/-- Settles O8: the string's bits from `hexBits_bits`, the writes from `setStaged_stagedWords`. -/
theorem threeWritesStageTheString : Obligations.ThreeWritesStageTheString := by
  refine ⟨fun digits h => ?_, fun digits h => ?_, setStaged_stagedWords, by decide⟩
  · obtain ⟨r, hr, hbits⟩ := hexBits_bits h
    exact ⟨r, congrArg (Option.map keyWrites) hr, congrArg (Option.map ivWrites) hr, hbits⟩
  · have hnone : hexBits digits = none := if_neg h
    exact ⟨congrArg (Option.map keyWrites) hnone, congrArg (Option.map ivWrites) hnone⟩

end Sys2Proof.Machine

/-! ### The state window (20_memory.md R67) -/

namespace Sys2Proof.Machine

/-- Bit `31 - j` of STATE`k` is cell `32k + j` (R67). -/
theorem getLsbD_readReg_window (s : State) {k j : Nat} (hk : k ≤ 8) (hj : j ≤ 31) :
    (readReg (regAt (16 + k)) s).getLsbD (31 - j) = cell s.cells (32 * k + j) := by
  rw [getLsbD_eq_getMsbD_top _ (by omega), regAt_window hk, readReg, stateWord,
    getMsbD_cellsFrom _ _ _ _ (by omega), decide_eq_true (by omega), Bool.true_and]

/-- Settles O9: cell `i` is read at word `i / 32`. -/
theorem stateWindowShowsTheCells : Obligations.StateWindowShowsTheCells := by
  refine ⟨fun s k j => getLsbD_readReg_window s, fun s t h => cells_ext fun i hi => ?_⟩
  rw [← Nat.div_add_mod i 32, ← getLsbD_readReg_window s (by omega) (by omega), h _ (by omega),
    getLsbD_readReg_window t (by omega) (by omega)]

end Sys2Proof.Machine

/-! ### The fields of a command word and the decoder (30_encoding.md R90 to R95) -/

namespace Sys2Proof

/-- Concatenations of the same widths agree exactly when their parts do. -/
theorem append_eq_append_iff {a b : Nat} {x x' : BitVec a} {y y' : BitVec b} :
    x ++ y = x' ++ y' ↔ x = x' ∧ y = y' := by
  refine ⟨fun h => ⟨?_, ?_⟩, fun ⟨hx, hy⟩ => hx ▸ hy ▸ rfl⟩
  · simpa only [BitVec.extractLsb'_append_eq_left] using congrArg (BitVec.extractLsb' b a) h
  · simpa only [BitVec.extractLsb'_append_eq_right] using congrArg (BitVec.extractLsb' 0 b) h

/-- A field and the one right below it, side by side, are one field. -/
theorem extract_append_extract (v : Word) (lo a b : Nat) :
    v.extractLsb' (lo + b) a ++ v.extractLsb' lo b = v.extractLsb' lo (a + b) :=
  BitVec.extractLsb'_append_extractLsb'_eq_extractLsb' rfl

/-- A word is its four fields of format N (R92). -/
theorem append_formatN_fields (v : Word) :
    v.extractLsb' 16 16 ++ v.extractLsb' 8 8 ++ reservedLow v ++ opcField v = v := by
  simp only [reservedLow, opcField]
  rw [extract_append_extract v 8 16 8, extract_append_extract v 4 24 4, extract_append_extract v 0 28 4,
    BitVec.extractLsb'_eq_self]

/-- A word is its five fields of format I (R91). -/
theorem append_formatI_fields (v : Word) :
    v.extractLsb' 24 8 ++ v.extractLsb' 16 8 ++ v.extractLsb' 8 8 ++ reservedLow v ++ opcField v = v := by
  rw [extract_append_extract v 16 8 8, append_formatN_fields]

theorem formatIClear_iff {v : Word} :
    formatIClear v = true ↔ reservedLow v = 0#4 ∧ v.extractLsb' 24 8 = 0#8 := by
  simp [formatIClear]

theorem formatNClear_iff {v : Word} :
    formatNClear v = true ↔ reservedLow v = 0#4 ∧ v.extractLsb' 16 16 = 0#16 := by
  simp [formatNClear]

/-- The mask of format I keeps the fixed fields and clears the two lengths. -/
theorem and_formatI_mask (v : Word) :
    v &&& 0xFF0000FF#32 = v.extractLsb' 24 8 ++ 0#8 ++ 0#8 ++ reservedLow v ++ opcField v :=
  calc
    v &&& 0xFF0000FF#32
    _ = (v.extractLsb' 24 8 ++ v.extractLsb' 16 8 ++ v.extractLsb' 8 8 ++ reservedLow v ++ opcField v) &&&
          (BitVec.allOnes 8 ++ 0#8 ++ 0#8 ++ BitVec.allOnes 4 ++ BitVec.allOnes 4) :=
        congrArg (· &&& 0xFF0000FF#32) (append_formatI_fields v).symm
    _ = _ := by simp only [BitVec.and_append, BitVec.and_allOnes, BitVec.and_zero]

/-- The mask of format N keeps the fixed fields and clears the count. -/
theorem and_formatN_mask (v : Word) :
    v &&& 0xFFFF00FF#32 = v.extractLsb' 16 16 ++ 0#8 ++ reservedLow v ++ opcField v :=
  calc
    v &&& 0xFFFF00FF#32
    _ = (v.extractLsb' 16 16 ++ v.extractLsb' 8 8 ++ reservedLow v ++ opcField v) &&&
          (BitVec.allOnes 16 ++ 0#8 ++ BitVec.allOnes 4 ++ BitVec.allOnes 4) :=
        congrArg (· &&& 0xFFFF00FF#32) (append_formatN_fields v).symm
    _ = _ := by simp only [BitVec.and_append, BitVec.and_allOnes, BitVec.and_zero]

/-- The pattern of INIT is its opcode with the reserved bits of format I clear (R94, R95). -/
theorem and_formatI_mask_eq_iff (v : Word) :
    v &&& 0xFF0000FF#32 = 0x00000001#32 ↔ opcField v = 0x1#4 ∧ formatIClear v = true := by
  have hfields : v.extractLsb' 24 8 ++ 0#8 ++ 0#8 ++ reservedLow v ++ opcField v =
      0#8 ++ 0#8 ++ 0#8 ++ 0#4 ++ 0x1#4 ↔
      (v.extractLsb' 24 8 = 0#8 ∧ reservedLow v = 0#4) ∧ opcField v = 0x1#4 := by
    simp only [append_eq_append_iff, and_true]
  rw [and_formatI_mask, formatIClear_iff, and_comm, and_comm (a := reservedLow v = 0#4)]
  exact hfields

/-- A pattern of format N is its opcode with the reserved bits of format N clear (R94, R95). -/
theorem and_formatN_mask_eq_iff (v : Word) (opc : BitVec 4) :
    v &&& 0xFFFF00FF#32 = 0#28 ++ opc ↔ opcField v = opc ∧ formatNClear v = true := by
  have hfields : v.extractLsb' 16 16 ++ 0#8 ++ reservedLow v ++ opcField v = 0#16 ++ 0#8 ++ 0#4 ++ opc ↔
      (v.extractLsb' 16 16 = 0#16 ∧ reservedLow v = 0#4) ∧ opcField v = opc := by
    simp only [append_eq_append_iff, and_true]
  rw [and_formatN_mask, formatNClear_iff, and_comm, and_comm (a := reservedLow v = 0#4)]
  exact hfields

theorem ifClear_eq_instr_iff {clear : Bool} {i j : Instr} :
    ifClear clear i = .instr j ↔ clear = true ∧ i = j := by
  cases clear <;> simp [ifClear]

/-! One equation of the decoder per opcode (R94). -/

theorem decode_opc_init {v : Word} (h : opcField v = 0x1#4) :
    decode v = ifClear (formatIClear v) (.init (klenField v) (ivlenField v)) := by simp [decode, h]

theorem decode_opc_gen {v : Word} (h : opcField v = 0x2#4) :
    decode v = ifClear (formatNClear v) (.gen (countField v)) := by simp [decode, h]

theorem decode_opc_xor {v : Word} (h : opcField v = 0x3#4) :
    decode v = ifClear (formatNClear v) (.xor (countField v)) := by simp [decode, h]

theorem decode_opc_inv {v : Word} (h : opcField v = 0x4#4) :
    decode v = ifClear (formatNClear v) (.inv (countField v)) := by simp [decode, h]

/-- The operands of a command are the fields of the word (R93). -/
def Instr.HasFieldsOf (v : Word) : Instr → Prop
  | .init klen ivlen => klen = klenField v ∧ ivlen = ivlenField v
  | .gen n | .xor n | .inv n => n = countField v

open Laws.FixedBits in
/-- A word decodes to a command exactly when it has the command's fixed bits and its fields are the operands. -/
theorem decode_eq_instr_iff {v : Word} {i : Instr} :
    decode v = .instr i ↔ v &&& mask i = pattern i ∧ i.HasFieldsOf v := by
  constructor
  · intro h
    unfold decode at h
    split_ifs at h with hinit hgen hxor hinv <;> obtain ⟨hclear, rfl⟩ := ifClear_eq_instr_iff.1 h
    · exact ⟨(and_formatI_mask_eq_iff v).2 ⟨hinit, hclear⟩, rfl, rfl⟩
    · exact ⟨(and_formatN_mask_eq_iff v _).2 ⟨hgen, hclear⟩, rfl⟩
    · exact ⟨(and_formatN_mask_eq_iff v _).2 ⟨hxor, hclear⟩, rfl⟩
    · exact ⟨(and_formatN_mask_eq_iff v _).2 ⟨hinv, hclear⟩, rfl⟩
  · rintro ⟨hfixed, hfields⟩
    cases i with
    | init klen ivlen =>
      obtain ⟨hopc, hclear⟩ := (and_formatI_mask_eq_iff v).1 hfixed
      obtain ⟨rfl, rfl⟩ := hfields
      exact (decode_opc_init hopc).trans (ifClear_eq_instr_iff.2 ⟨hclear, rfl⟩)
    | gen n =>
      obtain ⟨hopc, hclear⟩ := (and_formatN_mask_eq_iff v 0x2#4).1 hfixed
      exact (decode_opc_gen hopc).trans (ifClear_eq_instr_iff.2 ⟨hclear, hfields ▸ rfl⟩)
    | xor n =>
      obtain ⟨hopc, hclear⟩ := (and_formatN_mask_eq_iff v 0x3#4).1 hfixed
      exact (decode_opc_xor hopc).trans (ifClear_eq_instr_iff.2 ⟨hclear, hfields ▸ rfl⟩)
    | inv n =>
      obtain ⟨hopc, hclear⟩ := (and_formatN_mask_eq_iff v 0x4#4).1 hfixed
      exact (decode_opc_inv hopc).trans (ifClear_eq_instr_iff.2 ⟨hclear, hfields ▸ rfl⟩)

/-- A word is illegal exactly when it decodes to no command. -/
theorem decode_illegal_iff {v : Word} :
    (∃ why, decode v = .illegal why) ↔ ∀ i, decode v ≠ .instr i := by
  cases decode v <;> simp

/-! The rows of the table one by one (R94), each for some operands. -/

section
variable (v : Word)

theorem decode_init_iff :
    (∃ klen ivlen, decode v = .instr (.init klen ivlen)) ↔ v &&& 0xFF0000FF#32 = 0x00000001#32 :=
  ⟨fun ⟨_, _, h⟩ => (decode_eq_instr_iff.1 h).1, fun h => ⟨_, _, decode_eq_instr_iff.2 ⟨h, rfl, rfl⟩⟩⟩

theorem decode_gen_iff : (∃ n, decode v = .instr (.gen n)) ↔ v &&& 0xFFFF00FF#32 = 0x00000002#32 :=
  ⟨fun ⟨_, h⟩ => (decode_eq_instr_iff.1 h).1, fun h => ⟨_, decode_eq_instr_iff.2 ⟨h, rfl⟩⟩⟩

theorem decode_xor_iff : (∃ n, decode v = .instr (.xor n)) ↔ v &&& 0xFFFF00FF#32 = 0x00000003#32 :=
  ⟨fun ⟨_, h⟩ => (decode_eq_instr_iff.1 h).1, fun h => ⟨_, decode_eq_instr_iff.2 ⟨h, rfl⟩⟩⟩

theorem decode_inv_iff : (∃ n, decode v = .instr (.inv n)) ↔ v &&& 0xFFFF00FF#32 = 0x00000004#32 :=
  ⟨fun ⟨_, h⟩ => (decode_eq_instr_iff.1 h).1, fun h => ⟨_, decode_eq_instr_iff.2 ⟨h, rfl⟩⟩⟩

end

/-- Settles O17: `decode_eq_instr_iff` row by row; a word that decodes to no command matches no row. -/
theorem decoderAcceptsTheFourPatterns : Obligations.DecoderAcceptsTheFourPatterns := by
  intro v
  refine ⟨decode_init_iff v, decode_gen_iff v, decode_xor_iff v, decode_inv_iff v, ?_⟩
  rw [decode_illegal_iff]
  simp only [← decode_init_iff, ← decode_gen_iff, ← decode_xor_iff, ← decode_inv_iff, ne_eq, not_exists]
  constructor
  · intro h
    exact ⟨fun _ _ => h _, fun _ => h _, fun _ => h _, fun _ => h _⟩
  · rintro ⟨hinit, hgen, hxor, hinv⟩ (⟨klen, ivlen⟩ | n | n | n)
    · exact hinit klen ivlen
    · exact hgen n
    · exact hxor n
    · exact hinv n

/-! The fields as arithmetic on the word (R93). -/

theorem klenField_eq (v : Word) : klenField v = v.toNat / 256 % 256 := by
  rw [klenField, BitVec.extractLsb'_toNat, Nat.shiftRight_eq_div_pow]

theorem ivlenField_eq (v : Word) : ivlenField v = v.toNat / 65536 % 256 := by
  rw [ivlenField, BitVec.extractLsb'_toNat, Nat.shiftRight_eq_div_pow]

/-- The count is the byte `v[15:8]` read as two's complement. -/
theorem countField_eq (v : Word) :
    countField v = if klenField v < 128 then (klenField v : Int) else (klenField v : Int) - 256 := by
  rw [countField, BitVec.toInt_eq_toNat_cond, ← klenField]
  split_ifs <;> omega

/-- Settles O18: a word that decodes has its fields as operands. -/
theorem operandsAreTheFields : Obligations.OperandsAreTheFields := by
  refine fun v => ⟨fun klen ivlen h => ?_, fun n h => ?_⟩
  · obtain ⟨hk, hi⟩ := (decode_eq_instr_iff.1 h).2
    exact ⟨hk.trans (klenField_eq v), hi.trans (ivlenField_eq v)⟩
  · have hn : n = countField v := by
      obtain h | h | h := h <;> exact (decode_eq_instr_iff.1 h).2
    rw [hn, countField_eq, klenField_eq]

/-- The decoder at the three opcodes of format N: one check of the reserved bits. -/
theorem decode_opc_formatN {v : Word} (h : opcField v = 0x2#4 ∨ opcField v = 0x3#4 ∨ opcField v = 0x4#4) :
    ∃ i, decode v = ifClear (formatNClear v) i := by
  obtain h | h | h := h
  · exact ⟨_, decode_opc_gen h⟩
  · exact ⟨_, decode_opc_xor h⟩
  · exact ⟨_, decode_opc_inv h⟩

/-- Settles O19: a set reserved bit fails the format's check. -/
theorem reservedBitsMakeAWordIllegal : Obligations.ReservedBitsMakeAWordIllegal := by
  refine fun v => ⟨fun hopc hset => ?_, fun hopc hset => ?_⟩
  · have hclear : ¬ formatIClear v = true := mt formatIClear_iff.1 (not_and_or.2 hset)
    exact (decode_opc_init hopc).trans (if_neg hclear)
  · have hclear : ¬ formatNClear v = true := mt formatNClear_iff.1 (not_and_or.2 hset)
    obtain ⟨i, hi⟩ := decode_opc_formatN hopc
    exact hi.trans (if_neg hclear)

end Sys2Proof

/-! ### The forward clock, cell by cell (40_register_clocks.md R121, R122) -/

namespace Sys2Proof.Machine

@[simp] theorem cell_fwd_zero (S : Cells) : cell (fwd S) 0 = tap3 S := cell_fwd S 0 (by decide)

@[simp] theorem cell_fwd_93 (S : Cells) : cell (fwd S) 93 = tap1 S := cell_fwd S 93 (by decide)

@[simp] theorem cell_fwd_177 (S : Cells) : cell (fwd S) 177 = tap2 S := cell_fwd S 177 (by decide)

/-- A cell that is not the first of its register takes its lower neighbour's old value. -/
theorem cell_fwd_shift (S : Cells) {i : Nat} (h0 : i ≠ 0) (h93 : i ≠ 93) (h177 : i ≠ 177) (hi : i ≤ 287) :
    cell (fwd S) i = cell S (i - 1) := by
  rw [cell_fwd S i (by omega), if_neg h0, if_neg h93, if_neg h177]

/-- Settles O26: the three inserted cells, then the shifts of the registers A, B and C. -/
theorem forwardClockCellByCell : Obligations.ForwardClockCellByCell := by
  intro S
  refine ⟨cell_fwd_zero S, fun i h1 h2 => ?_, cell_fwd_93 S, fun i h1 h2 => ?_, cell_fwd_177 S, fun i h1 h2 => ?_⟩
  all_goals exact cell_fwd_shift S (by omega) (by omega) (by omega) (by omega)

end Sys2Proof.Machine

/-! ### The keystream clock and its runs (40_register_clocks.md R123 to R125, R130) -/

namespace Sys2Proof.Machine

/-- The first stage of R123 is the output bit: the same six cells, grouped in pairs (R125). -/
theorem ks_fst (S : Cells) : (ks S).1 = outBit S := by
  simp only [ks, outBit, Bool.xor_assoc]

/-- Settles O27: `ks_fst` and `ks_snd`. -/
theorem keystreamClockIsOutputAndForward : Obligations.KeystreamClockIsOutputAndForward :=
  fun S => ⟨ks_fst S, ks_snd S⟩

/-- Bit `j` of a keystream run is the output bit after `j` forward clocks (R130). -/
theorem ksRun_fst (n : Nat) (S : Cells) :
    (ksRun n S).1 = (List.range n).map fun j => outBit (fwd^[j] S) := by
  induction n generalizing S with
  | zero => rfl
  | succ n ih =>
    rw [ksRun_succ, List.range_succ_eq_map, List.map_cons, List.map_map, ih, ks_fst, ks_snd]
    rfl

/-- Settles O30: the equations of the recursions, then `ksRun_snd` and `ksRun_fst`. -/
theorem keystreamRunIsForwardRun : Obligations.KeystreamRunIsForwardRun := fun S n =>
  ⟨rfl, Function.iterate_succ_apply' fwd n S, rfl, Function.iterate_succ_apply' invClock n S, rfl, ksRun_succ n S,
    ksRun_snd n S, ksRun_fst n S⟩

end Sys2Proof.Machine

/-! ### The inverse clock undoes the forward clock (40_register_clocks.md R126 to R128) -/

namespace Sys2Proof.Machine

@[simp] theorem cell_invClock_92 (S : Cells) : cell (invClock S) 92 = recover92 S := cell_invClock S 92 (by decide)

@[simp] theorem cell_invClock_176 (S : Cells) : cell (invClock S) 176 = recover176 S := cell_invClock S 176 (by decide)

@[simp] theorem cell_invClock_287 (S : Cells) : cell (invClock S) 287 = recover287 S := cell_invClock S 287 (by decide)

/-- A cell that is not the last of its register takes its upper neighbour's value. -/
theorem cell_invClock_shift (S : Cells) {i : Nat} (h92 : i ≠ 92) (h176 : i ≠ 176) (hi : i < 287) :
    cell (invClock S) i = cell S (i + 1) := by
  rw [cell_invClock S i (by omega), if_neg h92, if_neg h176, if_neg (by omega)]

/-! A trailing cell `x` enters one tap `a ^^ p ^^ x ^^ d` and is copied nowhere (R122).  The other cells of that tap are
all still there one place up, so XOR with them recovers `x` from the inserted cell, and the tap from `x`. -/

theorem xor_rest_of_tap (a p x d : Bool) : (a ^^ p ^^ x ^^ d ^^ a ^^ p ^^ d) = x := by
  cases a <;> cases p <;> cases d <;> simp

theorem tap_of_xor_rest (a p t d : Bool) : (a ^^ p ^^ (t ^^ a ^^ p ^^ d) ^^ d) = t := by
  cases a <;> cases p <;> cases d <;> simp

theorem recover92_fwd (S : Cells) : recover92 (fwd S) = cell S 92 := by
  simp (disch := decide) only [recover92, cell_fwd_93, cell_fwd_shift, tap1, Nat.reduceSub, xor_rest_of_tap]

theorem recover176_fwd (S : Cells) : recover176 (fwd S) = cell S 176 := by
  simp (disch := decide) only [recover176, cell_fwd_177, cell_fwd_shift, tap2, Nat.reduceSub, xor_rest_of_tap]

theorem recover287_fwd (S : Cells) : recover287 (fwd S) = cell S 287 := by
  simp (disch := decide) only [recover287, cell_fwd_zero, cell_fwd_shift, tap3, Nat.reduceSub, xor_rest_of_tap]

theorem tap1_invClock (S : Cells) : tap1 (invClock S) = cell S 93 := by
  simp (disch := decide) only [tap1, cell_invClock_92, cell_invClock_shift, recover92, Nat.reduceAdd, tap_of_xor_rest]

theorem tap2_invClock (S : Cells) : tap2 (invClock S) = cell S 177 := by
  simp (disch := decide) only [tap2, cell_invClock_176, cell_invClock_shift, recover176, Nat.reduceAdd, tap_of_xor_rest]

theorem tap3_invClock (S : Cells) : tap3 (invClock S) = cell S 0 := by
  simp (disch := decide) only [tap3, cell_invClock_287, cell_invClock_shift, recover287, Nat.reduceAdd, tap_of_xor_rest]

/-- A trailing cell is recovered, and every other cell goes one place up and back (R127). -/
theorem invClock_fwd (S : Cells) : invClock (fwd S) = S := by
  refine cells_ext fun i hi => ?_
  rw [cell_invClock _ i hi]
  split_ifs with h92 h176 h287
  · rw [h92, recover92_fwd]
  · rw [h176, recover176_fwd]
  · rw [h287, recover287_fwd]
  · rw [cell_fwd_shift S (by omega) (by omega) (by omega) (by omega), Nat.add_sub_cancel]

/-- An inserted cell is the tap again, and every other cell goes one place down and back (R127). -/
theorem fwd_invClock (S : Cells) : fwd (invClock S) = S := by
  refine cells_ext fun i hi => ?_
  rw [cell_fwd _ i hi]
  split_ifs with h0 h93 h177
  · rw [h0, tap3_invClock]
  · rw [h93, tap1_invClock]
  · rw [h177, tap2_invClock]
  · rw [cell_invClock_shift S (by omega) (by omega) (by omega), Nat.sub_add_cancel (by omega)]

theorem fwd_bijective : Function.Bijective fwd :=
  Function.bijective_iff_has_inverse.2 ⟨invClock, invClock_fwd, fwd_invClock⟩

/-- Settles O28: a left and a right inverse stay so when both are iterated. -/
theorem inverseClockUndoesForward : Obligations.InverseClockUndoesForward :=
  ⟨fun S n => ⟨Function.LeftInverse.iterate invClock_fwd n S, Function.LeftInverse.iterate fwd_invClock n S⟩,
    fun S => ⟨invClock_fwd S, fwd_invClock S⟩, fwd_bijective⟩

/-- Settles O29: of the six output cells, the three that are not trailing cells are read one place up. -/
theorem undoneBitIsRecovered : Obligations.UndoneBitIsRecovered := by
  refine fun S => ⟨congrArg outBit (invClock_fwd S), ?_⟩
  rw [outBit, cell_invClock_shift S (i := 65) (by decide) (by decide) (by decide),
    cell_invClock_shift S (i := 161) (by decide) (by decide) (by decide),
    cell_invClock_shift S (i := 242) (by decide) (by decide) (by decide)]

end Sys2Proof.Machine

/-! ### The loaded state, and why no run of it is all zero (40_register_clocks.md R131, R132) -/

namespace Sys2Proof.Machine

theorem cell_load_key (k v : Bits80) {i : Nat} (hi : i < 80) : cell (load k v) i = stagedBit k i := by
  rw [cell_load k v i (by omega), if_pos hi, stagedBit]

theorem cell_load_iv (k v : Bits80) {i : Nat} (hi : i < 80) : cell (load k v) (93 + i) = stagedBit v i := by
  rw [cell_load k v _ (by omega), if_neg (by omega), if_neg (by omega), if_pos (by omega), Nat.add_sub_cancel_left,
    stagedBit]

theorem cell_load_gap (k v : Bits80) {i : Nat} (h80 : 80 ≤ i) (h93 : i < 93) : cell (load k v) i = false := by
  rw [cell_load k v i (by omega), if_neg (by omega), if_pos h93]

/-- The cells after the IV: zeros, then the three ones. -/
theorem cell_load_tail (k v : Bits80) {i : Nat} (h173 : 173 ≤ i) (hi : i < 288) :
    cell (load k v) i = decide (285 ≤ i) := by
  rw [cell_load k v i hi, if_neg (by omega), if_neg (by omega), if_neg (by omega)]

/-- The zero key and IV leave only the three ones. -/
theorem cell_load_zero {i : Nat} (hi : i < 288) : cell (load 0 0) i = decide (285 ≤ i) := by
  have hbit (j : Nat) : (0 : Bits80).getMsbD j = false := BitVec.getMsbD_zero
  by_cases h173 : 173 ≤ i
  · exact cell_load_tail 0 0 h173 hi
  · rw [cell_load 0 0 i hi, hbit, hbit, if_pos (Nat.lt_of_not_le h173), ite_self, ite_self, decide_eq_false (by omega)]

/-- Settles O31: the load function by its ranges of cells. -/
theorem loadPlacesKeyIvAndOnes : Obligations.LoadPlacesKeyIvAndOnes := by
  refine ⟨fun k v => ⟨fun i hi => cell_load_key k v (by omega), fun i h80 h92 => cell_load_gap k v h80 (by omega),
    fun i hi => cell_load_iv k v (by omega), fun i h173 h284 => ?_, fun i h285 h287 => ?_⟩,
    fun i hi => ?_, by decide⟩
  · exact (cell_load_tail k v h173 (by omega)).trans (decide_eq_false (by omega))
  · exact (cell_load_tail k v (by omega) (by omega)).trans (decide_eq_true h285)
  · rw [cell_load_zero (by omega), decide_eq_true_iff]

theorem load_ne_zero (k v : Bits80) : load k v ≠ 0 := by
  intro h
  have hone : cell (load k v) 287 = true := cell_load_tail k v (by decide) (by decide)
  rw [h] at hone
  exact Bool.false_ne_true ((cell_zero 287).symm.trans hone)

/-- Every tap of the zero state is 0. -/
theorem fwd_zero : fwd 0 = 0 := by
  have hcell (i : Nat) : cell (0 : Cells) i = false := cell_zero i
  refine cells_ext fun i hi => ?_
  simp only [cell_fwd 0 i hi, tap1, tap2, tap3, hcell, Bool.and_false, Bool.xor_false, ite_self]

/-- The forward clock is injective and keeps the zero state, so no other state is ever clocked to it. -/
theorem iterate_fwd_ne_zero {S : Cells} (hS : S ≠ 0) (n : Nat) : fwd^[n] S ≠ 0 := fun h =>
  hS (fwd_bijective.injective.iterate n (h.trans (Function.iterate_fixed fwd_zero n).symm))

/-- Settles O32: a loaded state has its last cell set, and forward clocks keep a state nonzero. -/
theorem warmedStateIsNeverAllZero : Obligations.WarmedStateIsNeverAllZero :=
  ⟨fwd_zero, fun k v n => ⟨load_ne_zero k v, iterate_fwd_ne_zero (load_ne_zero k v) n⟩⟩

end Sys2Proof.Machine

/-! ### Runs that read only old cells (40_register_clocks.md R133) -/

namespace Sys2Proof.Machine

/-- Cell `k` and the cell `j` places below it lie in one of the registers A, B and C. -/
abbrev SameRegisterBelow (j k : Nat) : Prop :=
  j ≤ k ∧ k ≤ 92 ∨ 93 + j ≤ k ∧ k ≤ 176 ∨ 177 + j ≤ k ∧ k ≤ 287

/-- `j` clocks move a cell `j` places up in its register. -/
theorem cell_iterate_fwd (S : Cells) {j k : Nat} (h : SameRegisterBelow j k) :
    cell (fwd^[j] S) k = cell S (k - j) := by
  induction j generalizing k with
  | zero => rfl
  | succ j ih =>
    rw [Function.iterate_succ_apply', cell_fwd_shift _ (by omega) (by omega) (by omega) (by omega), ih (by omega),
      Nat.sub_sub, Nat.add_comm 1 j]

/-- Settles O33: every cell read lies at least 65 places above the start of its register. -/
theorem sixtySixClocksReadOldCells : Obligations.SixtySixClocksReadOldCells := by
  refine ⟨fun S j hj => ?_, fun S => ⟨?_, ?_, ?_⟩⟩
  · simp (disch := omega) only [tap1, tap2, tap3, outBit, cell_iterate_fwd, and_self]
  · exact cell_iterate_fwd S (j := 65) (k := 65) (by omega)
  · exact cell_iterate_fwd S (j := 68) (k := 161) (by omega)
  · exact cell_iterate_fwd S (j := 65) (k := 242) (by omega)

end Sys2Proof.Machine

/-! ### INIT outside SETUP (41_setup.md R151, R152) -/

namespace Sys2Proof.Machine

variable {s : State}

theorem exec_init_of_lengthsOk (hp : s.phase ≠ .setup) {klen ivlen : Nat} (hl : lengthsOk klen ivlen) :
    exec (.init klen ivlen) s = .next (loadEngine s) := by
  rw [exec_init, execInit, unlessBusy_idle hp, if_pos hl]

theorem exec_init_of_not_lengthsOk (hp : s.phase ≠ .setup) {klen ivlen : Nat} (hl : ¬ lengthsOk klen ivlen) :
    exec (.init klen ivlen) s = .next (raiseError .invalidLength s) := by
  rw [exec_init, execInit, unlessBusy_idle hp, if_neg hl]

/-- Settles O34: with both lengths right, INIT answers `loadEngine`. -/
theorem initLoadsTheEngine : Obligations.InitLoadsTheEngine :=
  fun _ hp => exec_init_of_lengthsOk hp ⟨rfl, rfl⟩

/-- Settles O35: with a wrong length, INIT answers the error alone. -/
theorem initChecksBothLengths : Obligations.InitChecksBothLengths :=
  fun _ _ _ hp hlen => exec_init_of_not_lengthsOk hp (not_and_or.2 hlen)

end Sys2Proof.Machine

/-! ### Warm-up after INIT (41_setup.md R153, R158, R160) -/

namespace Sys2Proof.Machine

variable {s t u : State}

/-- In SETUP a write to CMD reports BUSY, whatever its word (R96). -/
theorem writeCmd_setup (hp : s.phase = .setup) (v : Word) : writeCmd v s = .next (raiseError .busy s) := by
  unfold writeCmd
  cases decode v with
  | illegal why => exact unlessBusy_setup hp _
  | instr i => cases i <;> exact unlessBusy_setup hp _

/-- What a step in SETUP can do to S and the sequencer: nothing, a sequencer clock, or a reset (R153, R156). -/
theorem step_setup_cases (hp : s.phase = .setup) (h : step s = .next t) :
    (t.config = s.config ∧ t.cells = s.cells ∧ t.phase = .setup ∧ t.wcnt = s.wcnt) ∨
    (t = seqStep s ∨ t = seqStep (useGap s)) ∨
    (HostTook s .applyReset ∧ t.config = s.config ∧ t.phase = .empty) := by
  obtain hsame | ⟨-, hclock⟩ | ⟨rest, hturn, rfl⟩ | ⟨v, rest, -, hcmd⟩ := step_engine_cases h
  · exact .inl ⟨hsame.config, hsame.cells, hsame.phase.trans hp, hsame.wcnt⟩
  · exact .inr (.inl hclock)
  · exact .inr (.inr ⟨⟨rest, hturn⟩, rfl, rfl⟩)
  · rw [writeCmd_setup (s := takeHostOp rest s) hp v] at hcmd
    cases hcmd
    exact .inl ⟨rfl, rfl, hp, rfl⟩

/-- A run that answers a next state took its first step to one and went on from there. -/
theorem step_of_run_succ {n : Nat} (h : Sys2Proof.core.run (n + 1) t = .next u) :
    ∃ w, step t = .next w ∧ Sys2Proof.core.run n w = .next u := by
  cases hw : step t with
  | next w => exact ⟨w, rfl, (run_succ_of_step hw n).symm.trans h⟩
  | fault r =>
    have hstop : Sys2Proof.core.step t = .fault r := hw
    simp [Host.Core.run, hstop] at h
  | refused r =>
    have hstop : Sys2Proof.core.step t = .refused r := hw
    simp [Host.Core.run, hstop] at h

/-- The first step of a run of warm-up. -/
theorem AfterInit.first_step {n : Nat} (h : AfterInit (n + 1) t u) :
    t.phase = .setup ∧ ∃ w, step t = .next w ∧ AfterInit n w u := by
  obtain ⟨hrun, hsetup⟩ := h
  obtain ⟨w, hw, hrest⟩ := step_of_run_succ hrun
  refine ⟨hsetup 0 t (Nat.succ_pos n) (run_zero t), w, hw, hrest, fun j x hj hx => ?_⟩
  exact hsetup (j + 1) x (Nat.succ_lt_succ hj) ((run_succ_of_step hw j).trans hx)

/-- What every step taken in SETUP keeps holds after a run of warm-up. -/
theorem AfterInit.keeps {P : State → Prop}
    (hstep : ∀ s t : State, s.phase = .setup → step s = .next t → P s → P t)
    {n : Nat} (h : AfterInit n t u) (ht : P t) : P u := by
  induction n generalizing t with
  | zero =>
    cases h.1
    exact ht
  | succ n ih =>
    obtain ⟨hp, w, hw, hrest⟩ := h.first_step
    exact ih hrest (hstep t w hp hw ht)

/-- `u` is an engine loaded with `L` in a build of `N` warm-up clocks: after WCNT clocks in SETUP, after all of them in
READY (R158). -/
structure Warms (L : Cells) (N : Nat) (u : State) : Prop where
  warmup : u.config.warmup = N
  setup : u.phase = .setup → u.cells = fwd^[u.wcnt] L
  ready : u.phase = .ready → u.cells = fwd^[N] L

/-- The load step has made no clock, which in a build without warm-up is all of them (R155). -/
theorem warms_loadEngine (s : State) : Warms (load s.key s.iv) s.config.warmup (loadEngine s) := by
  refine ⟨rfl, fun _ => rfl, fun hready => ?_⟩
  have hzero : s.config.warmup = 0 := by simpa using hready
  rw [hzero]
  rfl

variable {L : Cells} {N : Nat}

/-- A sequencer clock is one clock more, and leaves SETUP at the last one (R153). -/
theorem Warms.of_seqStep (hp : s.phase = .setup) (h : Warms L N s) : Warms L N (seqStep s) := by
  have hcells : fwd s.cells = fwd^[s.wcnt + 1] L := by rw [h.setup hp, Function.iterate_succ_apply']
  refine ⟨h.warmup, fun _ => hcells, fun hready => ?_⟩
  have hlast : s.wcnt + 1 = N := by simpa [hp, h.warmup] using hready
  exact hlast ▸ hcells

/-- Every step taken in SETUP keeps the engine on its way from the loaded state. -/
theorem Warms.of_step (hp : s.phase = .setup) (hstep : step s = .next t) (h : Warms L N s) : Warms L N t := by
  obtain ⟨hconfig, hcells, hphase, hwcnt⟩ | (rfl | rfl) | ⟨-, hconfig, hphase⟩ := step_setup_cases hp hstep
  · refine ⟨hconfig ▸ h.warmup, fun _ => ?_, fun hready => by simp [hphase] at hready⟩
    rw [hcells, hwcnt, h.setup hp]
  · exact h.of_seqStep hp
  · exact Warms.of_seqStep (s := useGap s) hp ⟨h.warmup, h.setup, h.ready⟩
  · exact ⟨hconfig ▸ h.warmup, fun hsetup => by simp [hphase] at hsetup,
      fun hready => by simp [hphase] at hready⟩

/-- A successful INIT starts an engine from the loaded state, and warm-up keeps it so (R158). -/
theorem warms_of_afterInit {n : Nat} (hp : s.phase ≠ .setup) (hinit : exec (.init 80 80) s = .next t)
    (h : AfterInit n t u) : Warms (load s.key s.iv) s.config.warmup u := by
  have hload : exec (.init 80 80) s = .next (loadEngine s) := exec_init_of_lengthsOk hp ⟨rfl, rfl⟩
  cases hload.symm.trans hinit
  exact h.keeps (fun _ _ => Warms.of_step) (warms_loadEngine s)

/-- In READY the core's registers are written by a command or a reset alone. -/
theorem SameEngine.of_step_ready (hp : s.phase = .ready) (h : step s = .next t)
    (hcmd : ∀ v, ¬ HostTook s (.memWrite 0 4 v)) (hreset : ¬ HostTook s .applyReset) : SameEngine s t := by
  obtain hsame | ⟨hsetup, -⟩ | ⟨rest, hturn, -⟩ | ⟨v, rest, hturn, -⟩ := step_engine_cases h
  · exact hsame
  · simp [hp] at hsetup
  · exact absurd ⟨rest, hturn⟩ hreset
  · exact absurd ⟨rest, hturn⟩ (hcmd v)

/-- Settles O41: `Warms` holds throughout warm-up, and a READY engine stays the same until a command or reset. -/
theorem warmupTracksTheLoadedState : Obligations.WarmupTracksTheLoadedState := by
  refine ⟨fun s t u n hp hinit h => ?_, fun s t hp h hcmd hreset => ?_⟩
  · have hwarms := warms_of_afterInit hp hinit h
    exact ⟨hwarms.setup, hwarms.ready⟩
  · have hsame := SameEngine.of_step_ready hp h hcmd hreset
    exact ⟨hsame.phase.trans hp, hsame.cells⟩

/-- Settles O42: both hold the warmed state of the one key, IV and build. -/
theorem setupIsDeterministic : Obligations.SetupIsDeterministic := by
  intro s s' t t' u u' n n' hkey hiv hconfig hp hp' hinit hinit' h h' hready hready'
  rw [(warms_of_afterInit hp hinit h).ready hready, (warms_of_afterInit hp' hinit' h').ready hready',
    hkey, hiv, hconfig]

end Sys2Proof.Machine

/-! ### Bit lists, words and masks (20_memory.md R65, 42_keystream.md R183) -/

namespace Sys2Proof.Machine

/-- Bit `j` of a packed list, counted from the top, is the list's bit `j`, and 0 past its end (R65). -/
theorem getMsbD_pack32 (L : List Bool) {j : Nat} (hj : j < 32) : (pack32 L).getMsbD j = L.getD j false := by
  induction L generalizing j with
  | nil => rw [pack32, List.getD_nil]; exact BitVec.getMsbD_zero
  | cons b L ih =>
    rw [pack32, getMsbD_concat]
    cases j with
    | zero => rw [if_pos (by decide), getMsbD_oneBit, decide_eq_true rfl, Bool.true_and, List.getD_cons_zero]
    | succ j =>
      rw [if_neg (by omega), Nat.add_sub_cancel, getMsbD_extract _ _ _ _ (by decide), List.getD_cons_succ,
        ← ih (by omega)]
      exact guarded_eq (by omega) (congrArg _ (Nat.zero_add j))

/-- The first `n` bits of a word, from the top (R65). -/
theorem unpack32_eq_map (w : Word) (n : Nat) : unpack32 w n = (List.range n).map w.getMsbD := by
  induction n generalizing w with
  | zero => rfl
  | succ n ih =>
    rw [unpack32, ih, List.range_succ_eq_map, List.map_cons, List.map_map]
    refine congrArg _ (List.map_congr_left fun j _ => ?_)
    rw [BitVec.getMsbD_shiftLeft, Function.comp_apply]

/-- Unpacking gives back a list that fits in a word. -/
theorem unpack32_pack32 {L : List Bool} (h : L.length ≤ 32) : unpack32 (pack32 L) L.length = L := by
  rw [unpack32_eq_map]
  refine List.ext_getElem (by simp) fun j _ hj => ?_
  rw [List.getElem_map, List.getElem_range, getMsbD_pack32 L (by omega), List.getD_eq_getElem L false hj]

theorem getMsbD_topMask (n : Nat) {j : Nat} (hj : j < 32) : (topMask n).getMsbD j = decide (j < n) := by
  rw [topMask, BitVec.getMsbD_shiftLeft, BitVec.getMsbD_allOnes]
  exact decide_eq_decide.mpr (by omega)

/-- Packing the first `n` bits of a word keeps these bits and clears the others. -/
theorem pack32_unpack32 (w : Word) (n : Nat) : pack32 (unpack32 w n) = w &&& topMask n := by
  refine BitVec.eq_of_getMsbD_eq fun j hj => ?_
  rw [getMsbD_pack32 _ hj, unpack32_eq_map, BitVec.getMsbD_and, getMsbD_topMask n hj]
  by_cases h : j < n <;> simp [h, List.getD_eq_getElem?_getD]

/-- XOR of the first bits is the first bits of the XOR. -/
theorem zipWith_xor_unpack32 (v w : Word) (n : Nat) :
    List.zipWith Bool.xor (unpack32 v n) (unpack32 w n) = unpack32 (v ^^^ w) n := by
  simp only [unpack32_eq_map, List.zipWith_map, List.zipWith_self]
  exact List.map_congr_left fun _ _ => BitVec.getMsbD_xor.symm

/-- A word holds the bits that stand from its top down, if those below are 0. -/
theorem holdsBits_of_getMsbD {w : Word} {n : Nat} {bit : Nat → Bool} (hn : n ≤ 32)
    (h : ∀ j, j < 32 → w.getMsbD j = (decide (j < n) && bit j)) : HoldsBits w n bit := by
  refine ⟨fun j hj => ?_, fun k hk => ?_⟩
  · rw [getLsbD_eq_getMsbD_top w (by omega), h j (by omega), decide_eq_true hj, Bool.true_and]
  · have hflip : k = 31 - (31 - k) := by omega
    rw [hflip, getLsbD_eq_getMsbD_top w (by omega), h _ (by omega), decide_eq_false (by omega), Bool.false_and]

theorem HoldsBits.congr {w : Word} {n : Nat} {bit bit' : Nat → Bool} (h : HoldsBits w n bit)
    (hbit : ∀ j, j < n → bit j = bit' j) : HoldsBits w n bit' :=
  ⟨fun j hj => (h.1 j hj).trans (hbit j hj), h.2⟩

/-- A packed list holds its bits (R65). -/
theorem holdsBits_pack32 {L : List Bool} (h : L.length ≤ 32) :
    HoldsBits (pack32 L) L.length fun j => L.getD j false := by
  refine holdsBits_of_getMsbD h fun j hj => ?_
  rw [getMsbD_pack32 L hj]
  by_cases hin : j < L.length
  · rw [decide_eq_true hin, Bool.true_and]
  · rw [decide_eq_false hin, Bool.false_and, List.getD_eq_default L false (by omega)]

/-- A word under the mask holds its own first bits. -/
theorem holdsBits_and_topMask (w : Word) {n : Nat} (hn : n ≤ 32) : HoldsBits (w &&& topMask n) n w.getMsbD :=
  holdsBits_of_getMsbD hn fun j hj => by
    rw [BitVec.getMsbD_and, getMsbD_topMask n hj, Bool.and_comm]

end Sys2Proof.Machine

/-! ### GEN and XOR in READY (42_keystream.md R180, R181, R183 to R185) -/

namespace Sys2Proof.Machine

variable {s : State}

@[simp] theorem length_ksRun (n : Nat) (S : Cells) : (ksRun n S).1.length = n := by
  rw [ksRun_fst, List.length_map, List.length_range]

/-- The keystream bits of a command, read back from KS_DATA. -/
theorem unpack32_pack32_ksRun {n : Nat} (hn : n ≤ 32) (S : Cells) :
    unpack32 (pack32 (ksRun n S).1) n = (ksRun n S).1 := by
  simpa using unpack32_pack32 (L := (ksRun n S).1) (by simpa using hn)

/-- The packed bits of a keystream run are the output bits after 0, 1, ... forward clocks (R180). -/
theorem holdsBits_pack32_ksRun {n : Nat} (hn : n ≤ 32) (S : Cells) :
    HoldsBits (pack32 (ksRun n S).1) n fun j => outBit (fwd^[j] S) := by
  have h := holdsBits_pack32 (L := (ksRun n S).1) (by simpa using hn)
  rw [length_ksRun] at h
  refine h.congr fun j hj => ?_
  rw [ksRun_fst, List.getD_eq_getElem _ _ (by simpa using hj), List.getElem_map, List.getElem_range]

/-- The mask form of R183. -/
theorem xorData_eq {n : Nat} (hn : n ≤ 32) (s : State) :
    xorData n s = (s.dataIn ^^^ pack32 (ksRun n s.cells).1) &&& topMask n := by
  rw [← pack32_unpack32, ← zipWith_xor_unpack32, unpack32_pack32_ksRun hn, xorData]

/-- A count in range is a natural number. -/
theorem exists_natCast_of_count {n : Int} (h0 : 0 ≤ n) (hn : n ≤ 32) : ∃ m : Nat, m ≤ 32 ∧ n = m :=
  ⟨n.toNat, by omega, by omega⟩

theorem countOk_natCast {n : Nat} (hn : n ≤ 32) : countOk (n : Int) :=
  ⟨Int.natCast_nonneg n, Int.ofNat_le.2 hn⟩

theorem not_countOk {n : Int} (h : n < 0 ∨ 32 < n) : ¬ countOk n := fun ⟨hlow, hhigh⟩ =>
  h.elim (not_lt.2 hlow) (not_lt.2 hhigh)

theorem engineCommand_invalidRequest {n : Int} (hp : s.phase = .ready) (hn : ¬ countOk n) (go : Nat → State) :
    engineCommand n s go = .next (raiseError .invalidRequest s) := by
  simpa [hp, hn] using engineCommand_answers n s go

/-- GEN in READY with a count in range records its bits. -/
theorem exec_gen_natCast (hp : s.phase = .ready) {n : Nat} (hn : n ≤ 32) :
    exec (.gen n) s = .next (recordBits (ksRun n s.cells) n s) := by
  rw [exec_gen, engineCommand_ready hp (countOk_natCast hn), Int.toNat_natCast]

/-- XOR in READY with a count in range records its bits and gives the masked XOR of data and bits. -/
theorem exec_xor_natCast (hp : s.phase = .ready) {n : Nat} (hn : n ≤ 32) :
    exec (.xor n) s = .next { recordBits (ksRun n s.cells) n s with
      dataOut := (s.dataIn ^^^ pack32 (ksRun n s.cells).1) &&& topMask n } := by
  rw [exec_xor, engineCommand_ready hp (countOk_natCast hn), Int.toNat_natCast, xorData_eq hn]

/-- What a keystream run records, with its forward clocks and its count written out. -/
theorem recordBits_ksRun (n : Nat) (s : State) :
    recordBits (ksRun n s.cells) n s = { s with
      cells := fwd^[n] s.cells, ksData := pack32 (ksRun n s.cells).1, ksCount := BitVec.ofInt 6 n,
      err := .none } := by
  rw [recordBits, ksRun_snd, BitVec.ofInt_natCast]

/-- Settles O43: KS_DATA is the packed keystream run. -/
theorem genGivesTheNextBits : Obligations.GenGivesTheNextBits := by
  refine fun s n hp => ⟨fun h0 h32 => ?_, fun hout =>
    (exec_gen n s).trans (engineCommand_invalidRequest hp (not_countOk hout) _)⟩
  obtain ⟨n, hn, rfl⟩ := exists_natCast_of_count h0 h32
  rw [exec_gen_natCast hp hn, recordBits_ksRun]
  exact ⟨_, rfl, holdsBits_pack32_ksRun hn s.cells⟩

/-- Settles O45: DATA_OUT in the mask form, whose bits are those of DATA_IN and KS_DATA. -/
theorem xorCombinesWithKeystream : Obligations.XorCombinesWithKeystream := by
  refine fun s n hp => ⟨fun h0 h32 => ?_, fun hout =>
    (exec_xor n s).trans (engineCommand_invalidRequest hp (not_countOk hout) _)⟩
  obtain ⟨n, hn, rfl⟩ := exists_natCast_of_count h0 h32
  have hbits := holdsBits_pack32_ksRun hn s.cells
  rw [exec_xor_natCast hp hn, recordBits_ksRun]
  refine ⟨_, _, rfl, hbits, (holdsBits_and_topMask _ hn).congr fun j hj => ?_, rfl⟩
  rw [BitVec.getMsbD_xor, ← getLsbD_eq_getMsbD_top _ (by omega), ← getLsbD_eq_getMsbD_top _ (by omega),
    hbits.1 j hj]

/-- XOR with the same word twice, under one mask. -/
theorem xor_mask_xor_mask (p d m : Word) : (((p ^^^ d) &&& m) ^^^ d) &&& m = p &&& m := by
  refine BitVec.eq_of_getLsbD_eq fun i _ => ?_
  rw [BitVec.getLsbD_and, BitVec.getLsbD_xor, BitVec.getLsbD_and, BitVec.getLsbD_xor, BitVec.getLsbD_and]
  cases m.getLsbD i <;> simp

/-- Settles O46: both commands mask the XOR with the same keystream bits. -/
theorem xorTwiceGivesTheDataBack : Obligations.XorTwiceGivesTheDataBack := by
  intro s s' t t' n hp hp' h0 h32 hcells h hdata h'
  obtain ⟨n, hn, rfl⟩ := exists_natCast_of_count h0 h32
  cases (exec_xor_natCast hp hn).symm.trans h
  cases (exec_xor_natCast hp' hn).symm.trans h'
  simp only [hdata, hcells]
  exact ⟨xor_mask_xor_mask _ _ _, rfl⟩

/-- Settles O44: a run of no clocks. -/
theorem genZeroPerformsNoClock : Obligations.GenZeroPerformsNoClock :=
  fun _ hp => exec_gen_natCast hp (Nat.zero_le 32)

/-- Settles O48: the answers of `exec_gen_natCast` and `exec_xor_natCast` name no other register. -/
theorem resultsDependOnRegisterAndData : Obligations.ResultsDependOnRegisterAndData := by
  intro s s' t t' n hp hp' hcells h0 h32
  obtain ⟨n, hn, rfl⟩ := exists_natCast_of_count h0 h32
  refine ⟨fun h h' => ?_, fun hdata h h' => ?_⟩
  · cases (exec_gen_natCast hp hn).symm.trans h
    cases (exec_gen_natCast hp' hn).symm.trans h'
    simp [hcells]
  · cases (exec_xor_natCast hp hn).symm.trans h
    cases (exec_xor_natCast hp' hn).symm.trans h'
    simp [hcells, hdata]

end Sys2Proof.Machine

/-! ### Requests of any length as a loop of GEN commands (42_keystream.md R182) -/

namespace Sys2Proof.Machine

variable {s : State}

theorem iterate_fwd_add (n m : Nat) (S : Cells) : fwd^[n + m] S = fwd^[m] (fwd^[n] S) := by
  rw [Nat.add_comm, Function.iterate_add_apply]

/-- A run goes on from the state an earlier run left. -/
theorem ksRun_add_fst (n m : Nat) (S : Cells) :
    (ksRun (n + m) S).1 = (ksRun n S).1 ++ (ksRun m (fwd^[n] S)).1 := by
  induction n generalizing S with
  | zero => rw [Nat.zero_add]; rfl
  | succ n ih =>
    rw [Nat.succ_add, ksRun_succ, ksRun_succ, ih, ks_snd, Function.iterate_succ_apply]
    rfl

/-- The loop's last command. -/
theorem genLoop_zero (hp : s.phase = .ready) {r : Nat} (hr : r ≤ 32) :
    genLoop 0 r s = some ((ksRun r s.cells).1, recordBits (ksRun r s.cells) r s) := by
  rw [genLoop, exec_gen_natCast hp hr]
  exact congrArg (fun L => some (L, _)) (unpack32_pack32_ksRun hr s.cells)

/-- One command GEN 32, then the loop from the state it answers. -/
theorem genLoop_succ (hp : s.phase = .ready) {k r : Nat} {L : List Bool} {u : State}
    (h : genLoop k r (recordBits (ksRun 32 s.cells) 32 s) = some (L, u)) :
    genLoop (k + 1) r s = some ((ksRun 32 s.cells).1 ++ L, u) := by
  have hgen : exec (.gen 32) s = .next (recordBits (ksRun 32 s.cells) 32 s) := exec_gen_natCast hp le_rfl
  simp only [genLoop, hgen, h, recordBits_ksData, unpack32_pack32_ksRun le_rfl]

/-- The loop from a READY engine gives the bits and the state of one run, and leaves the engine READY. -/
theorem genLoop_eq_ksRun (hp : s.phase = .ready) (k : Nat) {r : Nat} (hr : r ≤ 32) :
    ∃ u, genLoop k r s = some ((ksRun (32 * k + r) s.cells).1, u) ∧
      u.cells = fwd^[32 * k + r] s.cells ∧ u.phase = .ready := by
  induction k generalizing s with
  | zero =>
    rw [Nat.mul_zero, Nat.zero_add]
    exact ⟨_, genLoop_zero hp hr, ksRun_snd r s.cells, hp⟩
  | succ k ih =>
    obtain ⟨u, hloop, hcells, hphase⟩ := ih (s := recordBits (ksRun 32 s.cells) 32 s) hp
    have hcount : 32 * (k + 1) + r = 32 + (32 * k + r) := by omega
    rw [recordBits_cells, ksRun_snd] at hloop hcells
    refine ⟨u, ?_, ?_, hphase⟩
    · rw [genLoop_succ hp hloop, hcount, ksRun_add_fst 32]
    · rw [hcells, hcount, iterate_fwd_add 32]

/-- Settles O47: two runs in a row are one run, and so is the loop, by induction on its commands GEN 32. -/
theorem longRequestIsTheGenLoop : Obligations.LongRequestIsTheGenLoop := by
  refine ⟨fun s n m hp hn hm => ?_, fun s N hp => ?_⟩
  · refine ⟨_, _, exec_gen_natCast hp hn,
      exec_gen_natCast (s := recordBits (ksRun n s.cells) n s) hp hm, ?_, ?_⟩
    · rw [recordBits_cells, recordBits_cells, ksRun_snd, ksRun_snd, iterate_fwd_add]
    · rw [recordBits_ksData, recordBits_ksData, unpack32_pack32_ksRun hn, unpack32_pack32_ksRun hm,
        recordBits_cells, ksRun_snd, ksRun_add_fst]
  · have hloop := genLoop_eq_ksRun hp (N / 32) (r := N % 32) (by omega)
    rwa [Nat.div_add_mod] at hloop

end Sys2Proof.Machine

/-! ### INV in READY (43_inverse.md R210) -/

namespace Sys2Proof.Machine

variable {s : State}

/-- Bit `j` of an inverse run is the output bit after `j + 1` inverse clocks: latest undone clock first (R210). -/
theorem invRun_fst (n : Nat) (S : Cells) :
    (invRun n S).1 = (List.range n).map fun j => outBit (invClock^[j + 1] S) := by
  induction n generalizing S with
  | zero => rfl
  | succ n ih =>
    rw [invRun_succ, ih, List.range_succ_eq_map, List.map_cons, List.map_map]
    rfl

@[simp] theorem length_invRun (n : Nat) (S : Cells) : (invRun n S).1.length = n := by
  rw [invRun_fst, List.length_map, List.length_range]

/-- The undone bits of a command, read back from KS_DATA. -/
theorem unpack32_pack32_invRun {n : Nat} (hn : n ≤ 32) (S : Cells) :
    unpack32 (pack32 (invRun n S).1) n = (invRun n S).1 := by
  simpa using unpack32_pack32 (L := (invRun n S).1) (by simpa using hn)

/-- The packed bits of an inverse run are the output bits after 1, 2, ... inverse clocks (R210). -/
theorem holdsBits_pack32_invRun {n : Nat} (hn : n ≤ 32) (S : Cells) :
    HoldsBits (pack32 (invRun n S).1) n fun j => outBit (invClock^[j + 1] S) := by
  have h := holdsBits_pack32 (L := (invRun n S).1) (by simpa using hn)
  rw [length_invRun] at h
  refine h.congr fun j hj => ?_
  rw [invRun_fst, List.getD_eq_getElem _ _ (by simpa using hj), List.getElem_map, List.getElem_range]

/-- INV in READY with a count in range records its bits. -/
theorem exec_inv_natCast (hp : s.phase = .ready) {n : Nat} (hn : n ≤ 32) :
    exec (.inv n) s = .next (recordBits (invRun n s.cells) n s) := by
  rw [exec_inv, engineCommand_ready hp (countOk_natCast hn), Int.toNat_natCast]

/-- What an inverse run records, with its inverse clocks and its count written out. -/
theorem recordBits_invRun (n : Nat) (s : State) :
    recordBits (invRun n s.cells) n s = { s with
      cells := invClock^[n] s.cells, ksData := pack32 (invRun n s.cells).1, ksCount := BitVec.ofInt 6 n,
      err := .none } := by
  rw [recordBits, invRun_snd, BitVec.ofInt_natCast]

/-- Settles O50: KS_DATA is the packed inverse run. -/
theorem invRunsTheRegisterBackwards : Obligations.InvRunsTheRegisterBackwards := by
  refine fun s n hp => ⟨fun h0 h32 => ?_, fun hout =>
    (exec_inv n s).trans (engineCommand_invalidRequest hp (not_countOk hout) _)⟩
  obtain ⟨n, hn, rfl⟩ := exists_natCast_of_count h0 h32
  rw [exec_inv_natCast hp hn, recordBits_invRun]
  exact ⟨_, rfl, holdsBits_pack32_invRun hn s.cells⟩

end Sys2Proof.Machine

/-! ### Running back past the start of the stream (43_inverse.md R211) -/

namespace Sys2Proof.Machine

variable {s t : State}

theorem iterate_invClock_fwd (n : Nat) (S : Cells) : invClock^[n] (fwd^[n] S) = S :=
  Function.LeftInverse.iterate invClock_fwd n S

theorem iterate_fwd_invClock (n : Nat) (S : Cells) : fwd^[n] (invClock^[n] S) = S :=
  Function.LeftInverse.iterate fwd_invClock n S

/-- Bit `j` of STATE`k`, counted from the top, is cell `32k + j` (R67). -/
theorem getMsbD_stateWord (S : Cells) {k j : Nat} (hk : k ≤ 8) (hj : j < 32) :
    (stateWord S k).getMsbD j = cell S (32 * k + j) := by
  rw [stateWord, getMsbD_cellsFrom _ _ _ _ (by omega), decide_eq_true hj, Bool.true_and]

theorem stateWord_load_zero (k v : Bits80) : stateWord (load k v) 0 = stagedWord0 k := by
  refine BitVec.eq_of_getMsbD_eq fun j hj => ?_
  rw [getMsbD_stateWord _ (by omega) hj, cell_load_key k v (by omega), getMsbD_stagedWord0 k j hj, Nat.mul_zero,
    Nat.zero_add]

theorem stateWord_load_one (k v : Bits80) : stateWord (load k v) 1 = stagedWord1 k := by
  refine BitVec.eq_of_getMsbD_eq fun j hj => ?_
  rw [getMsbD_stateWord _ (by omega) hj, cell_load_key k v (by omega), getMsbD_stagedWord1 k j hj, Nat.mul_one]

/-- The upper half of STATE2 is the key's last 16 bits. -/
theorem stateWord_load_two (k v : Bits80) :
    (stateWord (load k v) 2).extractLsb' 16 16 = k.extractLsb' 0 16 := by
  refine BitVec.eq_of_getMsbD_eq fun j hj => ?_
  rw [getMsbD_extract _ _ _ _ (by decide), getMsbD_extract _ _ _ _ (by decide),
    getMsbD_stateWord _ (by decide) (by omega), cell_load_key k v (by omega), stagedBit]
  exact congrArg (fun i => _ && k.getMsbD i) (by omega)

/-- IV bit `i` stands in the window where R67 puts cell `93 + i`. -/
theorem stateWord_load_iv (k v : Bits80) {i : Nat} (hi : i < 80) :
    (stateWord (load k v) ((93 + i) / 32)).getLsbD (31 - (93 + i) % 32) = stagedBit v i := by
  rw [getLsbD_eq_getMsbD_top _ (by omega), getMsbD_stateWord _ (by omega) (by omega), Nat.div_add_mod,
    cell_load_iv k v hi]

/-- INV never changes PHASE: an error leaves it, and so does success. -/
theorem phase_of_exec_inv {n : Int} (h : exec (.inv n) s = .next t) : t.phase = s.phase := by
  obtain ⟨e, rfl⟩ | hok := exec_cases h
  · exact raiseError_phase e s
  · cases hok with
    | inv hp hn => exact recordBits_phase _ _ s

/-- Settles O51: the inverse clocks undo the `m + 1152` forward ones, the window shows a loaded state's key and IV, and
INV leaves PHASE. -/
theorem runningBackRecoversTheKey : Obligations.RunningBackRecoversTheKey := by
  refine ⟨fun k v m => ⟨?_, stateWord_load_zero k v, stateWord_load_one k v, stateWord_load_two k v,
    fun i hi => stateWord_load_iv k v hi⟩, fun s n hp => ?_⟩
  · rw [← iterate_fwd_add, Nat.add_comm 1152, iterate_invClock_fwd]
  · obtain ⟨t, ht⟩ := exec_next (.inv n) s
    exact ⟨t, ht, (phase_of_exec_inv ht).trans hp⟩

end Sys2Proof.Machine

/-! ### The round trip (43_inverse.md R212) -/

namespace Sys2Proof.Machine

variable {s : State}

/-- The inverse run of `n` clocks undoes the last of them first, so its bits are those of the run, mirrored. -/
theorem invRun_iterate_fwd_fst (n : Nat) (S : Cells) : (invRun n (fwd^[n] S)).1 = (ksRun n S).1.reverse := by
  induction n with
  | zero => rfl
  | succ n ih =>
    have hbits : (ksRun (n + 1) S).1 = (ksRun n S).1 ++ [outBit (fwd^[n] S)] := by
      rw [ksRun_fst, ksRun_fst, List.range_succ, List.map_append, List.map_singleton]
    rw [invRun_succ, Function.iterate_succ_apply', invClock_fwd, ih, hbits, List.reverse_concat]

/-- Running forward again gives the undone bits back, mirrored. -/
theorem ksRun_iterate_invClock_fst (n : Nat) (S : Cells) :
    (ksRun n (invClock^[n] S)).1 = (invRun n S).1.reverse := by
  have h := invRun_iterate_fwd_fst n (invClock^[n] S)
  rw [iterate_fwd_invClock] at h
  rw [h, List.reverse_reverse]

/-- What GEN and XOR share in READY: the next bits in KS_DATA, and `n` forward clocks (R180, R183). -/
theorem exec_keystream_natCast (hp : s.phase = .ready) {n : Nat} (hn : n ≤ 32) {i : Instr}
    (hi : i = .gen n ∨ i = .xor n) :
    ∃ t, exec i s = .next t ∧ t.phase = .ready ∧ t.cells = fwd^[n] s.cells ∧
      t.ksData = pack32 (ksRun n s.cells).1 := by
  obtain rfl | rfl := hi
  · exact ⟨_, exec_gen_natCast hp hn, hp, ksRun_snd n s.cells, rfl⟩
  · exact ⟨_, exec_xor_natCast hp hn, hp, ksRun_snd n s.cells, rfl⟩

/-- Settles O52: the clocks of one command undo the other's, and its bits are the other's mirrored. -/
theorem invAndGenRoundTrip : Obligations.InvAndGenRoundTrip := by
  refine fun s n hp hn => ⟨fun i hi => ?_, ?_⟩
  · obtain ⟨t, ht, htp, hcells, hdata⟩ := exec_keystream_natCast hp hn hi
    refine ⟨t, _, ht, exec_inv_natCast htp hn, ?_, ?_⟩
    · rw [recordBits_cells, invRun_snd, hcells, iterate_invClock_fwd]
    · rw [recordBits_ksData, hdata, hcells, unpack32_pack32_invRun hn, unpack32_pack32_ksRun hn,
        invRun_iterate_fwd_fst]
  · refine ⟨_, _, exec_inv_natCast hp hn,
      exec_gen_natCast (s := recordBits (invRun n s.cells) n s) hp hn, ?_, ?_⟩
    · rw [recordBits_cells, ksRun_snd, recordBits_cells, invRun_snd, iterate_fwd_invClock]
    · rw [recordBits_ksData, recordBits_ksData, unpack32_pack32_ksRun hn, unpack32_pack32_invRun hn,
        recordBits_cells, invRun_snd, ksRun_iterate_invClock_fst]

end Sys2Proof.Machine

/-! ### A failed command (60_exceptions.md R231, R233) -/

namespace Sys2Proof.Machine

variable {s t : State}

/-- A command that succeeds clears ERR, so an error in ERR tells a failed one (R232). -/
theorem Succeeds.err_eq_none {i : Instr} (h : Succeeds i s t) : t.err = .none := by
  cases h with
  | init => exact loadEngine_err s
  | gen | xor | inv => rfl

/-- A write to CMD that leaves an error in ERR is a failed command: it raised that error and did nothing else (R231). -/
theorem eq_raiseError_of_writeCmd {v : Word} (h : writeCmd v s = .next t) (herr : t.err ≠ .none) :
    t = raiseError t.err s := by
  obtain ⟨e, rfl⟩ | ⟨i, -, hs⟩ := writeCmd_cases h
  · rw [raiseError_err]
  · exact absurd hs.err_eq_none herr

/-- Settles O25: the dispatch gives ERR the first error that applies, and only a failed command leaves one there. -/
theorem failedCommandChangesOnlyErr : Obligations.FailedCommandChangesOnlyErr := by
  intro s v
  obtain ⟨t, ht, herr⟩ := writeCmd_err v s
  refine ⟨t, ht, herr, fun hne => ?_⟩
  rw [← herr]
  exact eq_raiseError_of_writeCmd ht hne

end Sys2Proof.Machine

/-! ### Reset (70_reset_and_hazards.md R260) -/

namespace Sys2Proof.Machine

variable {s : State} {rest : List HostOp}

/-- STATUS reads 0 when each of its fields has the code 0 (R28, R33, R230). -/
theorem statusWord_eq_zero (hphase : s.phase = .empty) (hcount : s.ksCount = 0) (herr : s.err = .none) :
    statusWord s = 0 := by
  rw [statusWord, busyFlag, hphase, hcount, herr]
  rfl

/-- The host's turn at applying reset, in any phase: the registers take their reset values (R260). -/
theorem step_of_hostTurn_applyReset (h : HostTurn s .applyReset rest) :
    step s = .next { resetRegisters (takeHostOp rest s) with resetHeld := true } :=
  step_of_hostTurn h

/-- While reset is applied a read is refused, at any offset and of any width (R260). -/
theorem step_of_hostTurn_read_held (hr : s.resetHeld = true) {off width : Nat}
    (h : HostTurn s (.memRead off width) rest) : step s = .refused .accessDuringReset := by
  rw [step_of_hostTurn h, hostStep]
  exact admitAccess_held (s := takeHostOp rest s) hr off width _

/-- While reset is applied a write is refused, at any offset and of any width (R260). -/
theorem step_of_hostTurn_write_held (hr : s.resetHeld = true) {off width : Nat} {v : Word}
    (h : HostTurn s (.memWrite off width v) rest) : step s = .refused .accessDuringReset := by
  rw [step_of_hostTurn h, hostStep]
  exact admitAccess_held (s := takeHostOp rest s) hr off width _

/-- Settles O54: the host's turn at applying reset writes every register, and the port admits no access while it
is applied. -/
theorem resetGivesEveryRegisterItsValue : Obligations.ResetGivesEveryRegisterItsValue := by
  refine ⟨fun s rest hturn => ?_, fun s rest off width v hr =>
    ⟨step_of_hostTurn_read_held hr, step_of_hostTurn_write_held hr⟩, rfl⟩
  have hstatus : readReg (regAt 1) { resetRegisters (takeHostOp rest s) with resetHeld := true } = 0 :=
    statusWord_eq_zero rfl rfl rfl
  exact ⟨_, step_of_hostTurn_applyReset hturn, rfl, rfl, rfl, rfl, rfl, rfl, rfl, rfl, rfl, rfl, hstatus, rfl, rfl⟩

end Sys2Proof.Machine

/-! ### The encoder against the decoder (30_encoding.md R93, R94, R98) -/

namespace Sys2Proof

theorem wellFormed_init_iff {klen ivlen : Nat} :
    (Instr.init klen ivlen).wellFormed = true ↔ lengthFits klen ∧ lengthFits ivlen := decide_eq_true_iff

theorem wellFormed_gen_iff {n : Int} : (Instr.gen n).wellFormed = true ↔ countFits n := decide_eq_true_iff

theorem wellFormed_xor_iff {n : Int} : (Instr.xor n).wellFormed = true ↔ countFits n := decide_eq_true_iff

theorem wellFormed_inv_iff {n : Int} : (Instr.inv n).wellFormed = true ↔ countFits n := decide_eq_true_iff

theorem klenField_encodeI {klen : Nat} (h : lengthFits klen) (ivlen : Nat) :
    klenField (encodeI klen ivlen) = klen := by
  rw [klenField, encodeI, BitVec.extractLsb'_append_eq_of_le (by decide),
    BitVec.extractLsb'_append_eq_of_le (by decide)]
  refine (congrArg BitVec.toNat BitVec.extractLsb'_append_eq_right).trans ?_
  exact (BitVec.toNat_ofNat ..).trans (Nat.mod_eq_of_lt (Nat.lt_succ_of_le h))

theorem ivlenField_encodeI {ivlen : Nat} (h : lengthFits ivlen) (klen : Nat) :
    ivlenField (encodeI klen ivlen) = ivlen := by
  rw [ivlenField, encodeI, BitVec.extractLsb'_append_eq_of_le (by decide),
    BitVec.extractLsb'_append_eq_of_le (by decide), BitVec.extractLsb'_append_eq_of_le (by decide)]
  refine (congrArg BitVec.toNat BitVec.extractLsb'_append_eq_right).trans ?_
  exact (BitVec.toNat_ofNat ..).trans (Nat.mod_eq_of_lt (Nat.lt_succ_of_le h))

theorem countField_encodeN (opc : BitVec 4) {n : Int} (h : countFits n) : countField (encodeN opc n) = n := by
  rw [countField, encodeN, BitVec.extractLsb'_append_eq_of_le (by decide),
    BitVec.extractLsb'_append_eq_of_le (by decide)]
  refine (congrArg BitVec.toInt BitVec.extractLsb'_append_eq_right).trans ?_
  obtain ⟨hlow, hhigh⟩ := h
  exact (BitVec.toInt_ofInt ..).trans (Int.bmod_eq_of_le (by omega) (by omega))

/-- The word of a well-formed command has the command's operands in its fields. -/
theorem encode_hasFieldsOf {i : Instr} (h : i.wellFormed = true) : i.HasFieldsOf (encode i) := by
  cases i with
  | init klen ivlen =>
    obtain ⟨hklen, hivlen⟩ := wellFormed_init_iff.1 h
    exact ⟨(klenField_encodeI hklen ivlen).symm, (ivlenField_encodeI hivlen klen).symm⟩
  | gen n => exact (countField_encodeN 0x2#4 (wellFormed_gen_iff.1 h)).symm
  | xor n => exact (countField_encodeN 0x3#4 (wellFormed_xor_iff.1 h)).symm
  | inv n => exact (countField_encodeN 0x4#4 (wellFormed_inv_iff.1 h)).symm

/-- The word of a command has the fixed bits of the command's row, one row at a time (R94). -/
theorem encode_fixedBits (i : Instr) : Laws.FixedBits.Statement i := by
  cases i with
  | init klen ivlen => exact Laws.FixedBits.init klen ivlen
  | gen n => exact Laws.FixedBits.gen n
  | xor n => exact Laws.FixedBits.xor n
  | inv n => exact Laws.FixedBits.inv n

/-- Settles O20: the word has the fixed bits of its row, and the operands in its fields. -/
theorem decodeOfEncodeIsTheCommand : Obligations.DecodeOfEncodeIsTheCommand :=
  fun i h => decode_eq_instr_iff.2 ⟨encode_fixedBits i, encode_hasFieldsOf h⟩

/-- A word with the pattern of INIT is the word of its two length fields. -/
theorem encodeI_fields {v : Word} (h : v &&& 0xFF0000FF#32 = 0x00000001#32) :
    encodeI (klenField v) (ivlenField v) = v := by
  obtain ⟨hopc, hclear⟩ := (and_formatI_mask_eq_iff v).1 h
  obtain ⟨hlow, hhigh⟩ := formatIClear_iff.1 hclear
  rw [encodeI, klenField, ivlenField, BitVec.ofNat_toNat, BitVec.setWidth_eq, BitVec.ofNat_toNat, BitVec.setWidth_eq]
  conv_rhs => rw [← append_formatI_fields v, hopc, hlow, hhigh]

/-- A word with a pattern of format N is the word of its opcode and its count field. -/
theorem encodeN_field {v : Word} {opc : BitVec 4} (h : v &&& 0xFFFF00FF#32 = 0#28 ++ opc) :
    encodeN opc (countField v) = v := by
  obtain ⟨hopc, hclear⟩ := (and_formatN_mask_eq_iff v opc).1 h
  obtain ⟨hlow, hhigh⟩ := formatNClear_iff.1 hclear
  rw [encodeN, countField, BitVec.ofInt_toInt]
  conv_rhs => rw [← append_formatN_fields v, hopc, hlow, hhigh]

theorem klenField_fits (v : Word) : lengthFits (klenField v) := Nat.le_of_lt_succ (BitVec.isLt _)

theorem ivlenField_fits (v : Word) : lengthFits (ivlenField v) := Nat.le_of_lt_succ (BitVec.isLt _)

theorem countField_fits (v : Word) : countFits (countField v) := by
  have hbyte := klenField_fits v
  rw [countField_eq]
  split_ifs <;> constructor <;> omega

/-- Settles O21: the word is its fixed bits and its fields, and a field's value is in the field's range. -/
theorem encodeOfDecodeIsTheWord : Obligations.EncodeOfDecodeIsTheWord := by
  intro v i h
  obtain ⟨hfixed, hfields⟩ := decode_eq_instr_iff.1 h
  cases i with
  | init klen ivlen =>
    obtain ⟨rfl, rfl⟩ := hfields
    exact ⟨encodeI_fields hfixed, wellFormed_init_iff.2 ⟨klenField_fits v, ivlenField_fits v⟩⟩
  | gen n => exact ⟨hfields ▸ encodeN_field hfixed, wellFormed_gen_iff.2 (hfields ▸ countField_fits v)⟩
  | xor n => exact ⟨hfields ▸ encodeN_field hfixed, wellFormed_xor_iff.2 (hfields ▸ countField_fits v)⟩
  | inv n => exact ⟨hfields ▸ encodeN_field hfixed, wellFormed_inv_iff.2 (hfields ▸ countField_fits v)⟩

/-- The value of a concatenation. -/
theorem toNat_concat {a b : Nat} (x : BitVec a) (y : BitVec b) : (x ++ y).toNat = x.toNat * 2 ^ b + y.toNat := by
  rw [BitVec.toNat_append, ← Nat.shiftLeft_add_eq_or_of_lt y.isLt, Nat.shiftLeft_eq]

/-- A word of format I as a number (R98). -/
theorem encodeI_eq_ofNat {klen ivlen : Nat} (hk : lengthFits klen) (hi : lengthFits ivlen) :
    encodeI klen ivlen = BitVec.ofNat 32 (ivlen * 2 ^ 16 + klen * 2 ^ 8 + 1) := by
  apply BitVec.eq_of_toNat_eq
  simp only [encodeI, toNat_concat, BitVec.toNat_ofNat]
  omega

/-- A word of format N as a number: the count's low byte above the opcode (R98). -/
theorem encodeN_eq_ofNat (opc : BitVec 4) (n : Int) :
    encodeN opc n = BitVec.ofNat 32 ((n % 256).toNat * 2 ^ 8 + opc.toNat) := by
  have hopc := opc.isLt
  apply BitVec.eq_of_toNat_eq
  simp only [encodeN, toNat_concat, BitVec.toNat_ofNat, BitVec.toNat_ofInt]
  omega

theorem assemble_of_wellFormed {i : Instr} (h : i.wellFormed = true) : assemble i = some (encode i) := if_pos h

theorem assemble_of_not_wellFormed {i : Instr} (h : ¬ i.wellFormed = true) : assemble i = none := if_neg h

/-- Settles O22: the words of the encoder as numbers; an operand out of range makes the command ill-formed. -/
theorem assemblerGivesTheStatedWords : Obligations.AssemblerGivesTheStatedWords := by
  refine ⟨fun klen ivlen hk hi => ?_, fun n hlow hhigh => ⟨?_, ?_, ?_⟩, fun klen ivlen h => ?_,
    fun n h => ⟨?_, ?_, ?_⟩, by decide⟩
  · rw [assemble_of_wellFormed (wellFormed_init_iff.2 ⟨hk, hi⟩), encode, encodeI_eq_ofNat hk hi]
  · rw [assemble_of_wellFormed (wellFormed_gen_iff.2 ⟨hlow, hhigh⟩), encode, encodeN_eq_ofNat]
    rfl
  · rw [assemble_of_wellFormed (wellFormed_xor_iff.2 ⟨hlow, hhigh⟩), encode, encodeN_eq_ofNat]
    rfl
  · rw [assemble_of_wellFormed (wellFormed_inv_iff.2 ⟨hlow, hhigh⟩), encode, encodeN_eq_ofNat]
    rfl
  · exact assemble_of_not_wellFormed (mt wellFormed_init_iff.1 (by omega))
  · exact assemble_of_not_wellFormed (mt wellFormed_gen_iff.1 (by omega))
  · exact assemble_of_not_wellFormed (mt wellFormed_xor_iff.1 (by omega))
  · exact assemble_of_not_wellFormed (mt wellFormed_inv_iff.1 (by omega))

/-- Settles O23: the decoder evaluated on the ten words. -/
theorem vectorWordsDecode : Obligations.VectorWordsDecode := by
  unfold Obligations.VectorWordsDecode
  decide

end Sys2Proof

/-! ### The frame of the commands and of a write to the port (R64, R69, R152, R180, R183, R210) -/

namespace Sys2Proof.Machine

/-- The build's parameter and the model's fields for the agents around the core are the same in `t` as in `s`. -/
structure SameWorld (s t : State) : Prop where
  config : t.config = s.config
  host : t.host = s.host
  reads : t.reads = s.reads
  resetHeld : t.resetHeld = s.resetHeld
  gap : t.gap = s.gap
  draws : t.draws = s.draws

variable {s t : State} {i : Instr}

theorem Succeeds.sameWorld (h : Succeeds i s t) : SameWorld s t := by
  cases h <;> exact ⟨rfl, rfl, rfl, rfl, rfl, rfl⟩

/-- No command touches the world around the core. -/
theorem SameWorld.of_exec (h : exec i s = .next t) : SameWorld s t := by
  obtain ⟨e, rfl⟩ | hs := exec_cases h
  · exact ⟨rfl, rfl, rfl, rfl, rfl, rfl⟩
  · exact hs.sameWorld

/-- No write to the port touches the world around the core. -/
theorem SameWorld.of_writeReg {r : PortReg} {v : Word} (h : writeReg r v s = .next t) : SameWorld s t := by
  cases writeReg_cases h with
  | command hd hs => exact hs.sameWorld
  | failed | key | iv | dataIn | ignored => exact ⟨rfl, rfl, rfl, rfl, rfl, rfl⟩

/-- No command writes a register of the host (R69). -/
theorem SameStaging.of_exec (h : exec i s = .next t) : SameStaging s t := by
  obtain ⟨e, rfl⟩ | hs := exec_cases h
  · exact ⟨rfl, rfl, rfl⟩
  · cases hs <;> exact ⟨rfl, rfl, rfl⟩

/-- The words of the port that show no register a command writes: all but STATUS, KS_DATA, DATA_OUT and the window. -/
theorem readReg_eq_of_frame (hconfig : t.config = s.config) (hstaging : SameStaging s t) {w : Nat} (hw : w < 32)
    (hstatus : w ≠ 1) (hksData : w ≠ 12) (hdataOut : w ≠ 14) (hwindow : ¬ (16 ≤ w ∧ w ≤ 24)) :
    readReg (regAt w) t = readReg (regAt w) s := by
  have hwords : w = 0 ∨ w = 2 ∨ StagingWord w ∨ w = 3 ∨ w = 7 ∨ w = 11 ∨ w = 15 ∨ (25 ≤ w ∧ w ≤ 31) := by omega
  obtain rfl | rfl | hstage | hreserved := hwords
  · rfl
  · exact congrArg paramWord hconfig
  · exact hstaging.readReg_eq hstage
  · rw [regAt_reserved hreserved]
    rfl

/-- Only INIT writes PHASE and WCNT. -/
theorem phase_wcnt_of_exec (hi : ∀ klen ivlen, i ≠ .init klen ivlen) (h : exec i s = .next t) :
    t.phase = s.phase ∧ t.wcnt = s.wcnt := by
  obtain ⟨e, rfl⟩ | hs := exec_cases h
  · exact ⟨rfl, rfl⟩
  · cases hs with
    | init => exact absurd rfl (hi _ _)
    | gen | xor | inv => exact ⟨rfl, rfl⟩

/-- Only XOR and INIT write DATA_OUT. -/
theorem dataOut_of_exec (hxor : ∀ n, i ≠ .xor n) (hinit : ∀ klen ivlen, i ≠ .init klen ivlen)
    (h : exec i s = .next t) : t.dataOut = s.dataOut := by
  obtain ⟨e, rfl⟩ | hs := exec_cases h
  · rfl
  · cases hs with
    | init => exact absurd rfl (hinit _ _)
    | xor => exact absurd rfl (hxor _)
    | gen | inv => rfl

/-- Settles O53: the frame of every command, and what the port shows of it. -/
theorem commandsLeaveTheRestAlone : Obligations.CommandsLeaveTheRestAlone := by
  intro i s t h
  have hworld := SameWorld.of_exec h
  have hstaging := SameStaging.of_exec h
  exact ⟨⟨hworld.config, hstaging.key, hstaging.iv, hstaging.dataIn, hworld.host, hworld.reads, hworld.resetHeld,
      hworld.gap, hworld.draws⟩,
    fun hi => phase_wcnt_of_exec hi h, fun hxor hinit => dataOut_of_exec hxor hinit h,
    fun _ => readReg_eq_of_frame hworld.config hstaging⟩

end Sys2Proof.Machine

/-! ### GEN, XOR and INV by phase, and the registers they do not read (10_state.md R27, 43_inverse.md R213) -/

namespace Sys2Proof.Machine

variable {s : State} {n : Int} {go : Nat → State}

theorem engineCommand_setup (hp : s.phase = .setup) : engineCommand n s go = .next (raiseError .busy s) :=
  unlessBusy_setup hp _

theorem engineCommand_empty (hp : s.phase = .empty) : engineCommand n s go = .next (raiseError .noEngine s) := by
  simpa [hp] using engineCommand_answers n s go

/-- In SETUP every command reports BUSY (R96). -/
theorem exec_setup (hp : s.phase = .setup) (i : Instr) : exec i s = .next (raiseError .busy s) := by
  cases i <;> exact unlessBusy_setup hp _

/-- In EMPTY every command but INIT reports NO_ENGINE (R233). -/
theorem exec_empty (hp : s.phase = .empty) {i : Instr} (hinit : ∀ klen ivlen, i ≠ .init klen ivlen) :
    exec i s = .next (raiseError .noEngine s) := by
  cases i with
  | init klen ivlen => exact absurd rfl (hinit klen ivlen)
  | gen n => rw [exec_gen, engineCommand_empty hp]
  | xor n => rw [exec_xor, engineCommand_empty hp]
  | inv n => rw [exec_inv, engineCommand_empty hp]

/-- Settles O36: BUSY is checked first by every command, NO_ENGINE next by all but INIT. -/
theorem commandsWithoutAReadyEngine : Obligations.CommandsWithoutAReadyEngine :=
  fun _ i => ⟨fun hp => exec_setup hp i, fun hp hinit => exec_empty hp hinit⟩

/-- An update of the state that neither PHASE, nor raising an error, nor the command's effect sees goes through the
command unchanged. -/
theorem engineCommand_update {f : State → State} {go' : Nat → State} (hphase : (f s).phase = s.phase)
    (herr : ∀ e, raiseError e (f s) = f (raiseError e s)) (hgo : ∀ m, go' m = f (go m)) :
    ∃ t, engineCommand n s go = .next t ∧ engineCommand n (f s) go' = .next (f t) := by
  obtain ⟨hp, e⟩ | ⟨hp, e⟩ | ⟨hp, hn, e⟩ | ⟨hp, hn, e⟩ := engineCommand_answers n s go <;>
    refine ⟨_, e, ?_⟩ <;> rw [← hphase] at hp
  · rw [engineCommand_setup hp, herr]
  · rw [engineCommand_empty hp, herr]
  · rw [engineCommand_invalidRequest hp hn, herr]
  · rw [engineCommand_ready hp hn, hgo]

/-- Settles O49: none of the effects reads the replaced registers. -/
theorem engineCommandsIgnoreStaging : Obligations.EngineCommandsIgnoreStaging := by
  refine fun s k v d n => ⟨fun i hi => ?_, fun i hi => ?_⟩
  · have hupdate {go go' : Nat → State} := engineCommand_update (s := s) (n := n) (go := go) (go' := go')
      (f := fun s => { s with key := k, iv := v }) rfl fun _ => rfl
    obtain rfl | rfl | rfl := hi
    · rw [exec_gen, exec_gen]; exact hupdate fun _ => rfl
    · rw [exec_xor, exec_xor]; exact hupdate fun _ => rfl
    · rw [exec_inv, exec_inv]; exact hupdate fun _ => rfl
  · have hupdate {go go' : Nat → State} := engineCommand_update (s := s) (n := n) (go := go) (go' := go')
      (f := fun s => { s with dataIn := d }) rfl fun _ => rfl
    obtain rfl | rfl := hi
    · rw [exec_gen, exec_gen]; exact hupdate fun _ => rfl
    · rw [exec_inv, exec_inv]; exact hupdate fun _ => rfl

end Sys2Proof.Machine

/-! ### The invariant of the core (10_state.md R28 to R30, 60_exceptions.md R230, 70_reset_and_hazards.md R260) -/

namespace Sys2Proof.Machine

/-- The part of the invariant that speaks of the registers the core writes. -/
structure EngineInv (s : State) : Prop where
  warmup : WarmupUnfinished s
  output : OutputFits s
  noOutput : NoOutputUntilReady s
  nonzero : EngineIsNonzero s
  err : ErrFitsPhase s

variable {s t : State}

theorem inv_iff : s.Inv ↔ EngineInv s ∧ ResetHoldsRegisters s :=
  ⟨fun ⟨hwarmup, houtput, hnoOutput, hnonzero, herr, hreset⟩ =>
      ⟨⟨hwarmup, houtput, hnoOutput, hnonzero, herr⟩, hreset⟩,
    fun ⟨⟨hwarmup, houtput, hnoOutput, hnonzero, herr⟩, hreset⟩ =>
      ⟨hwarmup, houtput, hnoOutput, hnonzero, herr, hreset⟩⟩

theorem EngineInv.of_sameEngine (h : EngineInv s) (hsame : SameEngine s t) : EngineInv t := by
  obtain ⟨hconfig, hcells, hphase, hwcnt, hksData, hksCount, hdataOut, herr⟩ := hsame
  constructor
  · simpa only [WarmupUnfinished, hphase, hwcnt, hconfig] using h.warmup
  · simpa only [OutputFits, hksData, hksCount] using h.output
  · simpa only [NoOutputUntilReady, hphase, hksData, hksCount, hdataOut] using h.noOutput
  · simpa only [EngineIsNonzero, hphase, hcells] using h.nonzero
  · simpa only [ErrFitsPhase, hphase, herr] using h.err

theorem engineInv_resetRegisters (s : State) : EngineInv (resetRegisters s) := by
  constructor
  · simp [WarmupUnfinished]
  · simp [OutputFits]
  · simp [NoOutputUntilReady]
  · simp [EngineIsNonzero]
  · simp [ErrFitsPhase]

/-- ERR = NONE fits every phase. -/
theorem errFitsPhase_of_none (h : s.err = .none) : ErrFitsPhase s := by
  simp [ErrFitsPhase, h]

/-- BUSY is an error of SETUP, and a count is looked at in READY alone (R233). -/
theorem reportedError_empty (d : Decoded) :
    reportedError d .empty ≠ .busy ∧ reportedError d .empty ≠ .invalidRequest := by
  cases d with
  | illegal why => simp [reportedError_illegal]
  | instr i => cases i <;> simp [reportedError, ite_eq_iff]

/-- NO_ENGINE is an error of EMPTY (R233). -/
theorem reportedError_ready (d : Decoded) : reportedError d .ready ≠ .noEngine := by
  cases d with
  | illegal why => simp [reportedError_illegal]
  | instr i => cases i <;> simp [reportedError, ite_eq_iff]

/-- The error a command reports fits the phase it was written in. -/
theorem errFitsPhase_of_reported {d : Decoded} (h : s.err = reportedError d s.phase) : ErrFitsPhase s := by
  cases hp : s.phase with
  | setup => simp [ErrFitsPhase, h, hp, reportedError]
  | empty => simpa [ErrFitsPhase, h, hp] using reportedError_empty d
  | ready => simpa [ErrFitsPhase, h, hp] using reportedError_ready d

theorem EngineInv.of_raiseError (h : EngineInv s) {e : ErrCode} (herr : ErrFitsPhase (raiseError e s)) :
    EngineInv (raiseError e s) :=
  ⟨h.warmup, h.output, h.noOutput, h.nonzero, herr⟩

/-- A warm-up clock leads to SETUP or READY. -/
theorem seqStep_phase_ne_empty (hp : s.phase = .setup) : (seqStep s).phase ≠ .empty := by
  rw [seqStep_phase, hp]
  split_ifs <;> simp

/-- The load step leads to SETUP or READY. -/
theorem loadEngine_phase_ne_empty (s : State) : (loadEngine s).phase ≠ .empty := by
  rw [loadEngine_phase]
  split_ifs <;> simp

/-- A clock of a nonzero state leaves a nonzero state, and READY begins when no clock remains (R132, R154). -/
theorem EngineInv.of_seqStep (h : EngineInv s) (hp : s.phase = .setup) : EngineInv (seqStep s) := by
  have hwarmup := h.warmup hp
  have hcells : s.cells ≠ 0 := mt h.nonzero.2 (by simp [hp])
  have hfwd : fwd s.cells ≠ 0 := iterate_fwd_ne_zero hcells 1
  have hphase := seqStep_phase_ne_empty hp
  have herr : s.err = .none ∨ s.err = .busy := h.err.2.1 hp
  constructor
  · intro hsetup
    have hmore : s.wcnt + 1 ≠ s.config.warmup := by simpa [hp] using hsetup
    simp only [seqStep_wcnt, seqStep_config]
    omega
  · exact h.output
  · exact fun _ => h.noOutput (by simp [hp])
  · exact iff_of_false hphase hfwd
  · refine ⟨fun hempty => absurd hempty hphase, fun _ => herr, fun _ => ?_⟩
    obtain herr | herr := herr <;> simp [herr]

/-- The load step leaves a nonzero state, no output and no error (R131, R152). -/
theorem engineInv_loadEngine (s : State) : EngineInv (loadEngine s) := by
  constructor
  · intro hsetup
    have hmore : s.config.warmup ≠ 0 := by simpa using hsetup
    exact Nat.pos_of_ne_zero hmore
  · simp [OutputFits]
  · simp [NoOutputUntilReady]
  · exact iff_of_false (loadEngine_phase_ne_empty s) (load_ne_zero s.key s.iv)
  · exact errFitsPhase_of_none rfl

/-- The bits of a command stand above the others, which are 0 (R65). -/
theorem pack32_and_not_topMask {L : List Bool} (h : L.length ≤ 32) : pack32 L &&& ~~~topMask L.length = 0 := by
  have hmask : pack32 L &&& topMask L.length = pack32 L := by rw [← pack32_unpack32, unpack32_pack32 h]
  rw [← hmask, BitVec.and_assoc, BitVec.and_not_self]
  exact BitVec.and_zero

/-- A successful GEN, XOR or INV in READY: at most 32 bits recorded, and a nonzero state. -/
theorem EngineInv.of_recordBits (h : EngineInv s) (hp : s.phase = .ready) {r : List Bool × Cells} {n : Nat}
    (hn : n ≤ 32) (hlen : r.1.length = n) (hcells : r.2 ≠ 0) (d : Word) :
    EngineInv { recordBits r n s with dataOut := d } := by
  have hcount : (BitVec.ofNat 6 n).toNat = n := by
    rw [BitVec.toNat_ofNat, Nat.mod_eq_of_lt (by omega)]
  constructor
  · exact h.warmup
  · simp only [OutputFits, recordBits_ksCount, recordBits_ksData, hcount]
    subst hlen
    exact ⟨hn, pack32_and_not_topMask hn⟩
  · exact fun hne => absurd hp hne
  · exact iff_of_false (by simp [hp]) hcells
  · exact errFitsPhase_of_none rfl

/-- The inverse clock is injective and keeps the zero state, so no other state is ever clocked to it. -/
theorem iterate_invClock_ne_zero {S : Cells} (hS : S ≠ 0) (n : Nat) : invClock^[n] S ≠ 0 := by
  intro h
  have hback : fwd^[n] (invClock^[n] S) = S := iterate_fwd_invClock n S
  rw [h, Function.iterate_fixed fwd_zero] at hback
  exact hS hback.symm

theorem toNat_le_of_countOk {n : Int} (h : countOk n) : n.toNat ≤ 32 := Int.toNat_le.2 h.2

theorem EngineInv.of_succeeds (h : EngineInv s) {i : Instr} (hs : Succeeds i s t) : EngineInv t := by
  have hcells (hp : s.phase = .ready) : s.cells ≠ 0 := mt h.nonzero.2 (by simp [hp])
  cases hs with
  | init hp hl => exact engineInv_loadEngine s
  | gen hp hn =>
    exact h.of_recordBits hp (toNat_le_of_countOk hn) (length_ksRun _ _)
      (ksRun_snd _ s.cells ▸ iterate_fwd_ne_zero (hcells hp) _) s.dataOut
  | xor hp hn =>
    exact h.of_recordBits hp (toNat_le_of_countOk hn) (length_ksRun _ _)
      (ksRun_snd _ s.cells ▸ iterate_fwd_ne_zero (hcells hp) _) _
  | inv hp hn =>
    exact h.of_recordBits hp (toNat_le_of_countOk hn) (length_invRun _ _)
      (invRun_snd _ s.cells ▸ iterate_invClock_ne_zero (hcells hp) _) s.dataOut

/-- A write to CMD reports an error that fits the phase, or succeeds. -/
theorem EngineInv.of_writeCmd (h : EngineInv s) {v : Word} (hcmd : writeCmd v s = .next t) : EngineInv t := by
  obtain ⟨e, rfl⟩ | ⟨i, -, hs⟩ := writeCmd_cases hcmd
  · obtain ⟨u, hu, herr⟩ := writeCmd_err v s
    cases hu.symm.trans hcmd
    exact h.of_raiseError (errFitsPhase_of_reported herr)
  · exact h.of_succeeds hs

/-- Every step keeps the part of the invariant that speaks of the core's registers. -/
theorem EngineInv.of_step (h : EngineInv s) (hstep : step s = .next t) : EngineInv t := by
  obtain hsame | ⟨hp, rfl | rfl⟩ | ⟨rest, -, rfl⟩ | ⟨v, rest, -, hcmd⟩ := step_engine_cases hstep
  · exact h.of_sameEngine hsame
  · exact h.of_seqStep hp
  · have hgap : EngineInv (useGap s) := h.of_sameEngine ⟨rfl, rfl, rfl, rfl, rfl, rfl, rfl, rfl⟩
    exact hgap.of_seqStep hp
  · exact (engineInv_resetRegisters (takeHostOp rest s)).of_sameEngine ⟨rfl, rfl, rfl, rfl, rfl, rfl, rfl, rfl⟩
  · have htaken : EngineInv (takeHostOp rest s) := h.of_sameEngine ⟨rfl, rfl, rfl, rfl, rfl, rfl, rfl, rfl⟩
    exact htaken.of_writeCmd hcmd

/-- While reset is applied the registers hold their reset values through every step: there is no warm-up then, and the
port admits no access (R260). -/
theorem ResetHoldsRegisters.of_step (h : ResetHoldsRegisters s) (hstep : step s = .next t) :
    ResetHoldsRegisters t := by
  have hempty (hheld : s.resetHeld = true) : s.phase = .empty := (congrArg State.phase (h hheld)).symm
  obtain ⟨-, -, rfl⟩ | ⟨-, hp, rfl⟩ | ⟨-, hp, -, rfl⟩ | ⟨op, rest, -, -, hmove⟩ := step_cases hstep
  · exact h
  · exact fun hheld => absurd hp (by simp [hempty hheld])
  · exact fun hheld => absurd hp (by simp [hempty hheld])
  cases hmove with
  | read w hw hr => exact fun hheld => absurd (hr.symm.trans hheld) Bool.false_ne_true
  | write w hw hr hwrite =>
    have hreleased : t.resetHeld = false := (SameWorld.of_writeReg hwrite).resetHeld.trans hr
    exact fun hheld => absurd (hreleased.symm.trans hheld) Bool.false_ne_true
  | applyReset => exact fun _ => rfl
  | releaseReset => exact fun hheld => absurd hheld Bool.false_ne_true

/-- Settles O59: each part of the invariant is kept. -/
theorem everyStepKeepsTheInvariant : Obligations.EveryStepKeepsTheInvariant := by
  intro s t hinv hstep
  obtain ⟨hengine, hreset⟩ := inv_iff.1 hinv
  exact inv_iff.2 ⟨hengine.of_step hstep, hreset.of_step hstep⟩

/-- Settles O58: the state after reset has its own reset values. -/
theorem invariantHoldsAtReset : Obligations.InvariantHoldsAtReset :=
  inv_iff.2 ⟨engineInv_resetRegisters State.reset, fun _ => rfl⟩

/-- Settles O60: the fields of STATUS one by one; the codes of PHASE and ERR are legal, and the invariant bounds
KS_COUNT. -/
theorem statusIsAlwaysLegal : Obligations.StatusIsAlwaysLegal := by
  intro s hinv
  have hphase : phaseCode s.phase ≠ 3#2 := by cases s.phase <;> decide
  have hbusy : busyFlag s = (phaseCode s.phase == 1#2) := by
    rw [busyFlag]
    cases s.phase <;> rfl
  have herr : (errCode s.err).toNat ≤ 5 := by cases s.err <;> decide
  have hcount : s.ksCount.toNat ≤ 32 := (inv_iff.1 hinv).1.output.1
  have hread : readReg (regAt 1) s = statusWord s := rfl
  rw [hread, legalStatus, statusWord_phase, statusWord_busy, statusWord_bit3, statusWord_err, statusWord_ksCount,
    statusWord_reserved, hbusy]
  simp [hphase, herr, hcount]

end Sys2Proof.Machine

/-! ### The register map, and the accesses of the host's turn (20_memory.md R60 to R62, R69, R70) -/

namespace Sys2Proof.Machine

/-- A named register's offset is that of its word in the map (R99). -/
theorem regAt_of_portOffset {r : PortReg} {off : Nat} (h : portOffset r = some off) :
    off % 4 = 0 ∧ regAt (off / 4) = r := by
  cases r with
  | window k =>
    obtain ⟨hk, rfl⟩ : k ≤ 8 ∧ 0x40 + 4 * k = off := by simpa [portOffset] using h
    have hword : (0x40 + 4 * k) / 4 = 16 + k := by omega
    exact ⟨by omega, hword ▸ regAt_window hk⟩
  | reserved => cases h
  | _ => cases h; exact ⟨rfl, rfl⟩

/-- Settles O1: the first words by evaluation, the rest by their ranges. -/
theorem registerMapIsTheTable : Obligations.RegisterMapIsTheTable :=
  ⟨rfl, fun _ => regAt_window, fun _ => regAt_aboveWindow, fun _ _ => portOffset_regAt,
    fun _ _ => regAt_of_portOffset⟩

variable {s : State}

/-- Settles O2: the port admits the access at the register of its word. -/
theorem portAccessIsOneStep : Obligations.PortAccessIsOneStep :=
  fun _ _ _ hw hr => ⟨step_of_hostTurn_read hw hr, fun _ => step_of_hostTurn_write hw hr⟩

theorem admitAccess_notWord (hr : s.resetHeld = false) {off width : Nat} (h : width ≠ 4 ∨ off % 4 ≠ 0)
    (go : PortReg → Result) : admitAccess off width s go = .refused (.notWordAccess off width) := by
  rw [admitAccess, if_neg (by simp [hr]), if_pos h]

theorem admitAccess_outside (hr : s.resetHeld = false) {off : Nat} (h4 : off % 4 = 0) (h : 0x7C < off)
    (go : PortReg → Result) : admitAccess off 4 s go = .fault (.outsidePort off) := by
  have hword : Config.portWords ≤ off / 4 := by
    simp only [Config.portWords]
    omega
  rw [admitAccess, if_neg (by simp [hr]), if_neg (by simp [h4]), if_pos hword]

/-- Settles O3: the port refuses the request before it looks for a register. -/
theorem nonWordAccessIsRefused : Obligations.NonWordAccessIsRefused := by
  refine fun s rest off width v hr h => ⟨fun hturn => ?_, fun hturn => ?_⟩
  · rw [step_of_hostTurn hturn, hostStep]
    exact admitAccess_notWord (s := takeHostOp rest s) hr h _
  · rw [step_of_hostTurn hturn, hostStep]
    exact admitAccess_notWord (s := takeHostOp rest s) hr h _

/-- Settles O4: the offset's word lies past the last word of the port. -/
theorem accessOutsidePortFaults : Obligations.AccessOutsidePortFaults := by
  refine fun s rest off v hr h4 h => ⟨fun hturn => ?_, fun hturn => ?_⟩
  · rw [step_of_hostTurn hturn, hostStep]
    exact admitAccess_outside (s := takeHostOp rest s) hr h4 h _
  · rw [step_of_hostTurn hturn, hostStep]
    exact admitAccess_outside (s := takeHostOp rest s) hr h4 h _

/-- Settles O56: the host's turn at releasing reset. -/
theorem releasingResetChangesNoRegister : Obligations.ReleasingResetChangesNoRegister :=
  fun _ _ hturn => step_of_hostTurn hturn

theorem writeCmd_of_decode {v : Word} {i : Instr} (h : decode v = .instr i) (s : State) :
    writeCmd v s = exec i s := by
  rw [writeCmd, h]

theorem decode_of_decodeTableWord {nbits w : Nat} {i : Instr} (h : decodeTableWord nbits w = some i) :
    decode (tableWord nbits w) = .instr i := by
  unfold decodeTableWord at h
  cases hd : decode (tableWord nbits w) with
  | instr j =>
    rw [hd] at h
    exact congrArg Decoded.instr (Option.some.inj h)
  | illegal why =>
    rw [hd] at h
    cases h

/-- A placed command is the host's next step, before any sequencer step. -/
theorem hostTurn_placeCommand (v : Word) (s : State) : HostTurn (placeCommand v s) (.memWrite 0 4 v) s.host := by
  refine ⟨rfl, ?_⟩
  simp [sequencerFirst, gapDue]

/-- Settles O24: the write's dispatch, for a waiting write to CMD and for a placed one. -/
theorem stepRunsTheDecodedCommand : Obligations.StepRunsTheDecodedCommand := by
  refine ⟨fun s rest v i hturn hr hd => ?_, fun s nbits w i hd => ?_⟩
  · rw [step_of_hostTurn_cmd hr hturn, writeCmd_of_decode hd]
  · rw [State.withFetchWord, step_of_hostTurn_cmd (placeCommand_resetHeld _ s) (hostTurn_placeCommand _ s),
      writeCmd_of_decode (decode_of_decodeTableWord hd)]

end Sys2Proof.Machine

/-! ### PARAM (10_state.md R32) -/

namespace Sys2Proof.Machine

theorem paramWord_low (c : Config) : (paramWord c).extractLsb' 0 16 = paramField c :=
  BitVec.extractLsb'_append_eq_right

theorem paramWord_high (c : Config) : (paramWord c).extractLsb' 16 16 = 0#16 :=
  BitVec.extractLsb'_append_eq_left

/-- A warm-up count that fits the field stands in it. -/
theorem toNat_paramField {c : Config} (h : c.warmup < 2 ^ 16) : (paramField c).toNat = c.warmup := by
  rw [paramField, if_pos h, BitVec.toNat_ofNat, Nat.mod_eq_of_lt h]

/-- Settles O11: the two halves of PARAM, and its value for the conforming count. -/
theorem paramShowsTheWarmupCount : Obligations.ParamShowsTheWarmupCount := by
  refine fun s v => ⟨fun h => ?_, paramWord_high s.config, fun h => ?_, rfl, rfl⟩
  · exact (congrArg BitVec.toNat (paramWord_low s.config)).trans (toNat_paramField h)
  · have hconforming : s.config = .conforming := congrArg Config.mk h
    exact congrArg paramWord hconforming

end Sys2Proof.Machine

/-! ### Packed bits and the bytes of a word (20_memory.md R65, R68) -/

namespace Sys2Proof.Machine

theorem getLsbD_streamByte (w : Word) {b j : Nat} (hb : b < 4) (hj : j < 8) :
    (streamByte w b).getLsbD (7 - j) = w.getLsbD (31 - (8 * b + j)) := by
  have hpos : 24 - 8 * b + (7 - j) = 31 - (8 * b + j) := by omega
  rw [streamByte, BitVec.getLsbD_extractLsb', hpos, decide_eq_true (by omega), Bool.true_and]

/-- Settles O12: a packed list holds its bits, a word is unpacked from its top, and a byte keeps the word's order. -/
theorem packPutsTheFirstBitAtTheTop : Obligations.PackPutsTheFirstBitAtTheTop := by
  refine ⟨fun L => holdsBits_pack32, fun w n hn => ?_, fun w b j => getLsbD_streamByte w⟩
  rw [unpack32_eq_map]
  refine List.map_congr_left fun j hj => (getLsbD_eq_getMsbD_top w ?_).symm
  have hjn : j < n := List.mem_range.1 hj
  omega

end Sys2Proof.Machine

/-! ### The writers of the sequencer's registers (10_state.md R28, R29) -/

namespace Sys2Proof.Machine

variable {s t : State}

/-- A successful command writes PHASE and WCNT if it is INIT, and no other command does. -/
theorem Succeeds.sequencer_cases {i : Instr} (h : Succeeds i s t) :
    (s.phase ≠ .setup ∧ i = .init 80 80 ∧ t = loadEngine s) ∨ (t.phase = s.phase ∧ t.wcnt = s.wcnt) := by
  cases h with
  | init hp hl =>
    obtain ⟨rfl, rfl⟩ := hl
    exact .inl ⟨hp, rfl, rfl⟩
  | gen | xor | inv => exact .inr ⟨rfl, rfl⟩

/-- What a step can do to the sequencer's registers: nothing, a clock, a reset, or the load of INIT. -/
theorem step_sequencer_cases (h : step s = .next t) :
    (t.config = s.config ∧ t.phase = s.phase ∧ t.wcnt = s.wcnt) ∨
    (s.phase = .setup ∧ (t = seqStep s ∨ t = seqStep (useGap s))) ∨
    (∃ rest, HostTurn s .applyReset rest ∧ t = { resetRegisters (takeHostOp rest s) with resetHeld := true }) ∨
    ∃ v rest, s.phase ≠ .setup ∧ HostTurn s (.memWrite 0 4 v) rest ∧ decode v = .instr (.init 80 80) ∧
      t = loadEngine (takeHostOp rest s) := by
  obtain hsame | hclock | hreset | ⟨v, rest, hturn, hcmd⟩ := step_engine_cases h
  · exact .inl ⟨hsame.config, hsame.phase, hsame.wcnt⟩
  · exact .inr (.inl hclock)
  · exact .inr (.inr (.inl hreset))
  obtain ⟨e, rfl⟩ | ⟨i, hd, hs⟩ := writeCmd_cases hcmd
  · exact .inl ⟨rfl, rfl, rfl⟩
  obtain ⟨hp, rfl, rfl⟩ | ⟨hphase, hwcnt⟩ := hs.sequencer_cases
  · exact .inr (.inr (.inr ⟨v, rest, hp, hturn, hd, rfl⟩))
  · exact .inl ⟨hs.sameWorld.config, hphase, hwcnt⟩

/-- A warm-up clock that changes PHASE is the last one (R154). -/
theorem wcnt_eq_of_seqStep_phase_ne (h : (seqStep s).phase ≠ s.phase) : s.wcnt + 1 = s.config.warmup :=
  by_contra fun hmore => h (if_neg hmore)

/-- Settles O14: the writers of PHASE and WCNT, each with the values it gives. -/
theorem sequencerRegistersHaveOnlyTheirWriters : Obligations.SequencerRegistersHaveOnlyTheirWriters := by
  refine ⟨fun r s n => by cases r <;> rfl, fun s t h => ?_⟩
  obtain ⟨hconfig, hphase, hwcnt⟩ | ⟨hp, hclock⟩ | ⟨rest, hturn, rfl⟩ | ⟨v, rest, hp, hturn, hd, rfl⟩ :=
    step_sequencer_cases h
  · exact ⟨hconfig, fun hne => absurd hphase hne, fun hne => absurd hwcnt hne⟩
  · have hlast (hne : (seqStep s).phase ≠ s.phase) := wcnt_eq_of_seqStep_phase_ne hne
    obtain rfl | rfl := hclock
    · exact ⟨rfl, fun hne => .inl ⟨hp, if_pos (hlast hne), rfl, hlast hne, rfl⟩, fun _ => .inl ⟨hp, rfl, rfl⟩⟩
    · exact ⟨rfl, fun hne => .inl ⟨hp, if_pos (hlast hne), rfl, hlast hne, rfl⟩, fun _ => .inl ⟨hp, rfl, rfl⟩⟩
  · exact ⟨rfl, fun _ => .inr (.inl ⟨⟨rest, hturn⟩, rfl⟩), fun _ => .inr (.inl ⟨⟨rest, hturn⟩, rfl⟩)⟩
  · exact ⟨rfl, fun _ => .inr (.inr ⟨hp, v, ⟨rest, hturn⟩, hd, rfl⟩),
      fun _ => .inr (.inr ⟨hp, v, ⟨rest, hturn⟩, hd, rfl⟩)⟩

end Sys2Proof.Machine

/-! ### The writers of the data registers (10_state.md R27, R30, R31) -/

namespace Sys2Proof.Machine

variable {s t : State}

/-- Only the words of KEY write KEY (R25). -/
theorem word_of_key_ne {w : Nat} {v : Word} (h : writeReg (regAt w) v s = .next t) (hne : t.key ≠ s.key) :
    w = 4 ∨ w = 5 ∨ w = 6 := by
  cases hreg : regAt w <;> rw [hreg] at h
  case cmd => exact absurd (SameStaging.of_writeCmd h).key hne
  case key0 => exact .inl (eq_of_regAt_eq (w := 4) (by decide) hreg)
  case key1 => exact .inr (.inl (eq_of_regAt_eq (w := 5) (by decide) hreg))
  case key2 => exact .inr (.inr (eq_of_regAt_eq (w := 6) (by decide) hreg))
  all_goals cases h; exact absurd rfl hne

/-- Only the words of IV write IV (R26). -/
theorem word_of_iv_ne {w : Nat} {v : Word} (h : writeReg (regAt w) v s = .next t) (hne : t.iv ≠ s.iv) :
    w = 8 ∨ w = 9 ∨ w = 10 := by
  cases hreg : regAt w <;> rw [hreg] at h
  case cmd => exact absurd (SameStaging.of_writeCmd h).iv hne
  case iv0 => exact .inl (eq_of_regAt_eq (w := 8) (by decide) hreg)
  case iv1 => exact .inr (.inl (eq_of_regAt_eq (w := 9) (by decide) hreg))
  case iv2 => exact .inr (.inr (eq_of_regAt_eq (w := 10) (by decide) hreg))
  all_goals cases h; exact absurd rfl hne

/-- Only the word of DATA_IN writes DATA_IN, and with the written value (R31). -/
theorem word_of_dataIn_ne {w : Nat} {v : Word} (h : writeReg (regAt w) v s = .next t) (hne : t.dataIn ≠ s.dataIn) :
    w = 13 ∧ v = t.dataIn := by
  cases hreg : regAt w <;> rw [hreg] at h
  case cmd => exact absurd (SameStaging.of_writeCmd h).dataIn hne
  case dataIn =>
    cases h
    exact ⟨eq_of_regAt_eq (w := 13) (by decide) hreg, rfl⟩
  all_goals cases h; exact absurd rfl hne

/-- Only INIT and XOR write DATA_OUT (R31, R152). -/
theorem Succeeds.writes_dataOut {i : Instr} (h : Succeeds i s t) (hne : t.dataOut ≠ s.dataOut) :
    i = .init 80 80 ∨ ∃ n, i = .xor n := by
  cases h with
  | init hp hl =>
    obtain ⟨rfl, rfl⟩ := hl
    exact .inl rfl
  | xor => exact .inr ⟨_, rfl⟩
  | gen | inv => exact absurd rfl hne

/-- The host's registers: KEY, IV and DATA_IN, with the words that write them. -/
theorem step_staging_writers (h : step s = .next t) :
    (t.key ≠ s.key → HostTook s .applyReset ∨
      ∃ v, HostTook s (.memWrite 0x10 4 v) ∨ HostTook s (.memWrite 0x14 4 v) ∨ HostTook s (.memWrite 0x18 4 v)) ∧
    (t.iv ≠ s.iv → HostTook s .applyReset ∨
      ∃ v, HostTook s (.memWrite 0x20 4 v) ∨ HostTook s (.memWrite 0x24 4 v) ∨ HostTook s (.memWrite 0x28 4 v)) ∧
    (t.dataIn ≠ s.dataIn → HostTook s .applyReset ∨ HostTook s (.memWrite 0x34 4 t.dataIn)) := by
  obtain hsame | ⟨rest, hturn, -⟩ | ⟨w, v, rest, -, hturn, hwrite⟩ := step_staging_cases h
  · exact ⟨absurd hsame.key, absurd hsame.iv, absurd hsame.dataIn⟩
  · exact ⟨fun _ => .inl ⟨rest, hturn⟩, fun _ => .inl ⟨rest, hturn⟩, fun _ => .inl ⟨rest, hturn⟩⟩
  refine ⟨fun hne => .inr ⟨v, ?_⟩, fun hne => .inr ⟨v, ?_⟩, fun hne => .inr ?_⟩
  · obtain rfl | rfl | rfl := word_of_key_ne hwrite hne
    · exact .inl ⟨rest, hturn⟩
    · exact .inr (.inl ⟨rest, hturn⟩)
    · exact .inr (.inr ⟨rest, hturn⟩)
  · obtain rfl | rfl | rfl := word_of_iv_ne hwrite hne
    · exact .inl ⟨rest, hturn⟩
    · exact .inr (.inl ⟨rest, hturn⟩)
    · exact .inr (.inr ⟨rest, hturn⟩)
  · obtain ⟨rfl, rfl⟩ := word_of_dataIn_ne hwrite hne
    exact ⟨rest, hturn⟩

/-- The outputs: KS_DATA, KS_COUNT and DATA_OUT, with the commands that write them. -/
theorem step_output_writers (h : step s = .next t) :
    (t.ksData ≠ s.ksData ∨ t.ksCount ≠ s.ksCount → HostTook s .applyReset ∨
      ∃ v i, HostTook s (.memWrite 0 4 v) ∧ decode v = .instr i ∧ t.err = .none) ∧
    (t.dataOut ≠ s.dataOut → HostTook s .applyReset ∨
      ∃ v, HostTook s (.memWrite 0 4 v) ∧
        (decode v = .instr (.init 80 80) ∨ ∃ n, decode v = .instr (.xor n))) := by
  obtain hsame | ⟨-, rfl | rfl⟩ | ⟨rest, hturn, -⟩ | ⟨v, rest, hturn, hcmd⟩ := step_engine_cases h
  · exact ⟨fun hne => hne.elim (absurd hsame.ksData) (absurd hsame.ksCount), absurd hsame.dataOut⟩
  · exact ⟨fun hne => hne.elim (absurd rfl) (absurd rfl), absurd rfl⟩
  · exact ⟨fun hne => hne.elim (absurd rfl) (absurd rfl), absurd rfl⟩
  · exact ⟨fun _ => .inl ⟨rest, hturn⟩, fun _ => .inl ⟨rest, hturn⟩⟩
  obtain ⟨e, rfl⟩ | ⟨i, hd, hs⟩ := writeCmd_cases hcmd
  · exact ⟨fun hne => hne.elim (absurd rfl) (absurd rfl), absurd rfl⟩
  · refine ⟨fun _ => .inr ⟨v, i, ⟨rest, hturn⟩, hd, hs.err_eq_none⟩, fun hne => .inr ⟨v, ⟨rest, hturn⟩, ?_⟩⟩
    simpa [hd] using hs.writes_dataOut hne

/-- Settles O15: the host's registers and the outputs, each with its writers. -/
theorem dataRegistersHaveOnlyTheirWriters : Obligations.DataRegistersHaveOnlyTheirWriters := by
  intro s t h
  obtain ⟨hkey, hiv, hdataIn⟩ := step_staging_writers h
  exact ⟨hkey, hiv, hdataIn, step_output_writers h⟩

end Sys2Proof.Machine

/-! ### The sequencer's turn (41_setup.md R153; notes/assumptions/8.md) -/

namespace Sys2Proof.Machine

variable {s t u : State}

theorem step_of_host_nil_setup (hp : s.phase = .setup) (hhost : s.host = []) : step s = .next (seqStep s) := by
  simp only [step, agentStep, hhost, hp, if_true]

theorem step_of_host_nil_idle (hp : s.phase ≠ .setup) (hhost : s.host = []) : step s = .next s := by
  simp only [step, agentStep, hhost, hp, if_false]

/-- A waiting host lets the sequencer go first while its share of the gap is not used up (R71). -/
theorem step_of_sequencerFirst {op : HostOp} {rest : List HostOp} (hhost : s.host = op :: rest)
    (h : sequencerFirst s = true) : step s = .next (seqStep (useGap s)) := by
  simp only [step, agentStep, hhost, h, if_true]

/-- Settles O37: the clock of the sequencer, with no host step waiting and with one, and the idle step. -/
theorem sequencerStepIsOneForwardClock : Obligations.SequencerStepIsOneForwardClock := by
  refine ⟨fun s hp h => ?_, fun s => step_of_host_nil_idle⟩
  have hphase : (seqStep s).phase = if s.wcnt + 1 = s.config.warmup then .ready else .setup := by
    rw [seqStep_phase, hp]
  cases hhost : s.host with
  | nil => exact ⟨_, step_of_host_nil_setup hp hhost, rfl, rfl, hphase, hhost ▸ rfl⟩
  | cons op rest =>
    have hgap : gapDue s ≠ 0 := by simpa [hhost] using h
    exact ⟨_, step_of_sequencerFirst hhost (sequencerFirst_iff.2 ⟨hp, hgap⟩), rfl, rfl, hphase, hhost ▸ rfl⟩

/-! ### Runs put together -/

theorem run_add_of_run {n : Nat} (h : Sys2Proof.core.run n s = .next t) (m : Nat) :
    Sys2Proof.core.run (n + m) s = Sys2Proof.core.run m t := by
  induction n generalizing s with
  | zero =>
    cases h
    rw [Nat.zero_add]
  | succ n ih =>
    obtain ⟨w, hstep, hrest⟩ := step_of_run_succ h
    rw [Nat.add_right_comm, run_succ_of_step hstep, ih hrest]

/-- A run with one step more at its end. -/
theorem run_succ_of_run {n : Nat} (h : Sys2Proof.core.run n s = .next t) (hstep : step t = .next u) :
    Sys2Proof.core.run (n + 1) s = .next u := by
  rw [run_add_of_run h, run_succ_of_step hstep, run_zero]

/-! ### Warm-up with no host step waiting (41_setup.md R154) -/

/-- Before the last of the remaining clocks the run is still in SETUP. -/
theorem run_warmup {k : Nat} (hp : s.phase = .setup) (hhost : s.host = []) (hk : s.wcnt + k < s.config.warmup) :
    Sys2Proof.core.run k s = .next { s with cells := fwd^[k] s.cells, wcnt := s.wcnt + k } := by
  induction k with
  | zero => rfl
  | succ k ih =>
    rw [run_succ_of_run (ih (by omega)) (step_of_host_nil_setup hp hhost), Function.iterate_succ_apply']
    have hmore : ¬ s.wcnt + k + 1 = s.config.warmup := by omega
    rw [seqStep, if_neg hmore]
    rfl

/-- The last of the remaining clocks ends warm-up. -/
theorem run_warmup_all {r : Nat} (hp : s.phase = .setup) (hhost : s.host = []) (hr : s.wcnt + r = s.config.warmup)
    (hpos : 0 < r) :
    Sys2Proof.core.run r s =
      .next { s with cells := fwd^[r] s.cells, wcnt := s.config.warmup, phase := .ready } := by
  obtain ⟨k, rfl⟩ := Nat.exists_eq_succ_of_ne_zero (Nat.ne_of_gt hpos)
  rw [run_succ_of_run (run_warmup hp hhost (k := k) (by omega)) (step_of_host_nil_setup hp hhost),
    Function.iterate_succ_apply', ← hr]
  have hlast : s.wcnt + k + 1 = s.config.warmup := by omega
  rw [seqStep, if_pos hlast]
  rfl

/-- Settles O38: the clocks before the last leave SETUP, and the last one ends it. -/
theorem warmupEndsAfterTheStatedClocks : Obligations.WarmupEndsAfterTheStatedClocks :=
  fun _ _ hp hhost hr hpos =>
    ⟨run_warmup_all hp hhost hr hpos, fun _ hk => run_warmup hp hhost (by omega)⟩

/-! ### Warm-up before a waiting host step (20_memory.md R71) -/

/-- `s` after `k` of the `r` remaining clocks, with the gap and the draws as they then are. -/
def clocked (k r : Nat) (gap : Option Nat) (draws : Nat) (s : State) : State :=
  { s with cells := fwd^[k] s.cells, wcnt := s.wcnt + k, phase := if k = r then .ready else .setup,
           gap := gap, draws := draws }

theorem clocked_zero (hp : s.phase = .setup) {r : Nat} (hpos : 0 < r) : clocked 0 r s.gap s.draws s = s := by
  rw [clocked, if_neg (Nat.ne_of_lt hpos), ← hp]
  rfl

/-- One clock more, taken from the gap. -/
theorem seqStep_useGap_clocked {k r : Nat} (hr : s.wcnt + r = s.config.warmup) (hk : k < r) (gap : Option Nat)
    (draws : Nat) :
    seqStep (useGap (clocked k r gap draws s)) =
      clocked (k + 1) r (some (gapDue (clocked k r gap draws s) - 1)) (drawsAfter (clocked k r gap draws s)) s := by
  have hcells : fwd (fwd^[k] s.cells) = fwd^[k + 1] s.cells := (Function.iterate_succ_apply' fwd k s.cells).symm
  have hlast : s.wcnt + (k + 1) = s.config.warmup ↔ k + 1 = r := by omega
  have hmore : ¬ k = r := Nat.ne_of_lt hk
  simp only [seqStep, useGap, clocked, hcells, hlast, if_neg hmore, Nat.add_assoc]

/-- `k` clocks before the waiting host step, if the gap lets as many go first. -/
theorem run_gap {op : HostOp} {rest : List HostOp} {r k : Nat} (hp : s.phase = .setup) (hhost : s.host = op :: rest)
    (hr : s.wcnt + r = s.config.warmup) (hpos : 0 < r) (hkr : k ≤ r) (hgap : k ≤ gapDue s) :
    ∃ gap draws, Sys2Proof.core.run k s = .next (clocked k r gap draws s) ∧
      gapDue (clocked k r gap draws s) = gapDue s - k ∧ drawsAfter (clocked k r gap draws s) = drawsAfter s ∧
      (0 < k → draws = drawsAfter s) := by
  induction k with
  | zero =>
    refine ⟨s.gap, s.draws, ?_⟩
    rw [clocked_zero hp hpos]
    exact ⟨rfl, rfl, rfl, fun h => absurd h (lt_irrefl 0)⟩
  | succ k ih =>
    obtain ⟨gap, draws, hrun, hdue, hdraws, -⟩ := ih (by omega) (by omega)
    have hphase : (clocked k r gap draws s).phase = .setup := if_neg (by omega)
    have hstep := step_of_sequencerFirst (s := clocked k r gap draws s) hhost
      (sequencerFirst_iff.2 ⟨hphase, by omega⟩)
    rw [seqStep_useGap_clocked hr hkr, hdue, hdraws] at hstep
    exact ⟨_, _, run_succ_of_run hrun hstep, rfl, rfl, fun _ => rfl⟩

/-- The host's turn comes when the gap is used up or warm-up has ended. -/
theorem warmsBeforeHost_clocked {op : HostOp} {rest : List HostOp} {r k : Nat} (hhost : s.host = op :: rest)
    {gap : Option Nat} {draws : Nat} (h : gapDue (clocked k r gap draws s) = 0 ∨ k = r) :
    WarmsBeforeHost k r op rest s (clocked k r gap draws s) := by
  refine ⟨rfl, hhost, Bool.eq_false_iff.2 fun hfirst => ?_⟩
  obtain ⟨hphase, hdue⟩ := sequencerFirst_iff.1 hfirst
  obtain h | h := h
  · exact hdue h
  · have hready : (clocked k r gap draws s).phase = .ready := if_pos h
    simp [hready] at hphase

/-- Settles O39: the clocks of a gap of `k`, and of the next free value or all that remain. -/
theorem everyInterleavingIsARun : Obligations.EveryInterleavingIsARun := by
  intro s op rest r hp hhost hr hpos
  refine ⟨fun k hk => ?_, fun hnone => ?_⟩
  · obtain ⟨gap, draws, hrun, hdue, -⟩ :=
      run_gap (s := { s with gap := some k }) hp hhost hr hpos hk le_rfl
    have hzero : gapDue (clocked k r gap draws s) = 0 := hdue.trans (Nat.sub_self k)
    exact ⟨_, hrun, warmsBeforeHost_clocked hhost (.inl hzero)⟩
  · have hfree : gapDue s = Config.seqSteps s.draws := by rw [gapDue, hnone]
    have hdrawn : drawsAfter s = s.draws + 1 := by rw [drawsAfter, hnone]
    obtain ⟨gap, draws, hrun, hdue, hdraws, hused⟩ :=
      run_gap (k := min (Config.seqSteps s.draws) r) hp hhost hr hpos (by omega) (by omega)
    refine ⟨_, hrun, warmsBeforeHost_clocked hhost (by omega), rfl, ?_⟩
    rw [takeHostOp_draws, hdraws, hdrawn]
    split_ifs with hsetup
    · rfl
    · have hall : min (Config.seqSteps s.draws) r = r := by_contra fun hne => hsetup (if_neg hne)
      exact (hused (by omega)).trans hdrawn

end Sys2Proof.Machine

/-! ### Warm-up and the host's steps (41_setup.md R156, R159) -/

namespace Sys2Proof.Machine

variable {s t : State}

/-- A step of the host leaves the ones after it in the list. -/
theorem HostMoves.host_eq {op : HostOp} (h : HostMoves op s t) : t.host = s.host := by
  cases h with
  | write w hw hr hwrite => exact (SameWorld.of_writeReg hwrite).host
  | read | applyReset | releaseReset => rfl

/-- A step of the host in SETUP leaves the engine alone, unless it applies reset (R156). -/
theorem HostMoves.of_setup {op : HostOp} (hp : s.phase = .setup) (h : HostMoves op s t) :
    (op = .applyReset ∧ t.phase = .empty) ∨
    (t.config = s.config ∧ t.cells = s.cells ∧ t.phase = s.phase ∧ t.wcnt = s.wcnt) := by
  cases h with
  | applyReset => exact .inl ⟨rfl, rfl⟩
  | read | releaseReset => exact .inr ⟨rfl, rfl, rfl, rfl⟩
  | @write _ _ v w hw hr hwrite =>
    by_cases hcmd : regAt w = .cmd
    · rw [hcmd, writeReg, writeCmd_setup hp v] at hwrite
      cases hwrite
      exact .inr ⟨rfl, rfl, rfl, rfl⟩
    · have hsame := SameEngine.of_writeReg hcmd hwrite
      exact .inr ⟨hsame.config, hsame.cells, hsame.phase, hsame.wcnt⟩

/-- A step in SETUP is a clock, with the host's steps left as they are, or takes one of the host's steps. -/
theorem step_setup_moves (hp : s.phase = .setup) (h : step s = .next t) :
    (t = seqStep s ∨ t = seqStep (useGap s)) ∨
    ∃ op rest, HostTurn s op rest ∧ t.host = rest ∧ ((op = .applyReset ∧ t.phase = .empty) ∨
      (t.config = s.config ∧ t.cells = s.cells ∧ t.phase = s.phase ∧ t.wcnt = s.wcnt)) := by
  obtain ⟨-, hidle, -⟩ | ⟨-, -, ht⟩ | ⟨-, -, -, ht⟩ | ⟨op, rest, hhost, hturn, hmove⟩ := step_cases h
  · exact absurd hp hidle
  · exact .inl (.inl ht)
  · exact .inl (.inr ht)
  · exact .inr ⟨op, rest, ⟨hhost, hturn⟩, hmove.host_eq, hmove.of_setup (s := takeHostOp rest s) hp⟩

/-- Settles O40: a clock lowers the clocks remaining, and a host step the host steps remaining. -/
theorem warmupCannotBeHeldUp : Obligations.WarmupCannotBeHeldUp := by
  intro s t hp hmore h
  obtain hclock | ⟨op, rest, hturn, ht, hmove⟩ := step_setup_moves hp h
  · obtain ⟨hhost, hconfig, hcells, hwcnt, hphase⟩ : t.host = s.host ∧ t.config = s.config ∧
        t.cells = fwd s.cells ∧ t.wcnt = s.wcnt + 1 ∧ t.phase ≠ .empty := by
      obtain rfl | rfl := hclock
      · exact ⟨rfl, rfl, rfl, rfl, seqStep_phase_ne_empty hp⟩
      · exact ⟨rfl, rfl, rfl, rfl, seqStep_phase_ne_empty (s := useGap s) hp⟩
    refine ⟨fun _ => ?_, fun _ => .inr ⟨hhost, hcells, hwcnt⟩, fun hempty => absurd hempty hphase⟩
    rw [hhost, hconfig, hwcnt]
    omega
  · have hlength : t.host.length + 1 = s.host.length := by rw [ht, hturn.1, List.length_cons]
    obtain ⟨rfl, hempty⟩ | ⟨hconfig, hcells, hphase, hwcnt⟩ := hmove
    · exact ⟨fun hsetup => by simp [hempty] at hsetup, absurd hempty, fun _ => ⟨rest, hturn⟩⟩
    · refine ⟨fun _ => ?_, fun _ => .inl ⟨⟨op, ⟨rest, hturn⟩, hlength⟩, hcells, hwcnt, hphase⟩,
        fun hempty => by simp [hphase, hp] at hempty⟩
      rw [hconfig, hwcnt]
      omega

end Sys2Proof.Machine

/-! ### Runs under the host's duties (60_exceptions.md R251, 93_implementation_defined.md M1, M2) -/

namespace Sys2Proof.Machine

variable {s : State}

/-- A word access inside the port is the access of one of its words (R60, R62). -/
theorem wordAccess_iff {off width : Nat} : wordAccess off width = true ↔ width = 4 ∧ ∃ w, w < 32 ∧ off = 4 * w := by
  have hdecide : wordAccess off width = true ↔ (width = 4 ∧ off % 4 = 0) ∧ off / 4 < Config.portWords := by
    simp only [wordAccess, Bool.and_eq_true, beq_iff_eq, decide_eq_true_iff]
  rw [hdecide]
  constructor
  · rintro ⟨⟨hwidth, hoff⟩, hport⟩
    exact ⟨hwidth, off / 4, hport, by omega⟩
  · rintro ⟨hwidth, w, hw, rfl⟩
    have hport : 4 * w / 4 < 32 := by omega
    exact ⟨⟨hwidth, Nat.mul_mod_right 4 w⟩, hport⟩

section
variable {held : Bool} {rest : List HostOp} {off width : Nat}

theorem dutiful_memRead : dutiful held (.memRead off width :: rest) = true ↔
    held = false ∧ (width = 4 ∧ ∃ w, w < 32 ∧ off = 4 * w) ∧ dutiful held rest = true := by
  rw [← wordAccess_iff]
  simp [dutiful, and_assoc]

theorem dutiful_memWrite {v : Word} : dutiful held (.memWrite off width v :: rest) = true ↔
    held = false ∧ (width = 4 ∧ ∃ w, w < 32 ∧ off = 4 * w) ∧ dutiful held rest = true := by
  rw [← wordAccess_iff]
  simp [dutiful, and_assoc]

end

/-- The host's turn at a step that keeps the duties. -/
theorem hostTurn_dutiful {op : HostOp} {rest : List HostOp} (hturn : HostTurn s op rest)
    (h : dutiful s.resetHeld (op :: rest) = true) : ∃ t, step s = .next t ∧ t.dutifulHost := by
  cases op with
  | memRead off width =>
    obtain ⟨hr, ⟨rfl, w, hw, rfl⟩, hrest⟩ := dutiful_memRead.1 h
    exact ⟨_, step_of_hostTurn_read hw hr hturn, hrest⟩
  | memWrite off width v =>
    obtain ⟨hr, ⟨rfl, w, hw, rfl⟩, hrest⟩ := dutiful_memWrite.1 h
    obtain ⟨t, ht⟩ := writeReg_next (regAt w) v (takeHostOp rest s)
    have hworld := SameWorld.of_writeReg ht
    refine ⟨t, (step_of_hostTurn_write hw hr hturn).trans ht, ?_⟩
    rw [State.dutifulHost, hworld.host, hworld.resetHeld]
    exact hrest
  | applyReset => exact ⟨_, step_of_hostTurn hturn, h⟩
  | releaseReset => exact ⟨_, step_of_hostTurn hturn, h⟩

/-- A step under the duties answers a next state, and the duties still hold there. -/
theorem step_dutiful (h : s.dutifulHost) : ∃ t, step s = .next t ∧ t.dutifulHost := by
  cases hhost : s.host with
  | nil =>
    by_cases hp : s.phase = .setup
    · exact ⟨_, step_of_host_nil_setup hp hhost, h⟩
    · exact ⟨s, step_of_host_nil_idle hp hhost, h⟩
  | cons op rest =>
    cases hfirst : sequencerFirst s with
    | true => exact ⟨_, step_of_sequencerFirst hhost hfirst, h⟩
    | false => exact hostTurn_dutiful ⟨hhost, hfirst⟩ (hhost ▸ h)

/-- Settles O57: the step lemma, and by induction every run. -/
theorem dutifulHostNeverStops : Obligations.DutifulHostNeverStops := by
  refine ⟨fun s => step_dutiful, fun s n h => ?_⟩
  induction n generalizing s with
  | zero => exact ⟨s, run_zero s⟩
  | succ n ih =>
    obtain ⟨t, hstep, ht⟩ := step_dutiful h
    obtain ⟨u, hrun⟩ := ih t ht
    exact ⟨u, (run_succ_of_step hstep n).trans hrun⟩

end Sys2Proof.Machine

/-! ### Staging a key and an IV word by word (10_state.md R25, R26; 70_reset_and_hazards.md R263) -/

namespace Sys2Proof.Machine

/-- A staging register is its three words. -/
theorem stagedWords_ext {r q : Bits80} (h0 : stagedWord0 r = stagedWord0 q) (h1 : stagedWord1 r = stagedWord1 q)
    (h2 : stagedWord2 r = stagedWord2 q) : r = q := by
  rw [← setStaged_stagedWords r q, h0, h1, h2, setStaged_stagedWords]

/-- Word 2 already has its reserved half 0. -/
theorem stagedWord2_and_mask (r : Bits80) : stagedWord2 r &&& 0x0000FFFF#32 = stagedWord2 r := by
  rw [← stagedWord2_setStaged2 _ (setStaged1 (stagedWord1 r) (setStaged0 (stagedWord0 r) r)), setStaged_stagedWords]

/-- The words of KEY and IV (R61). -/
abbrev KeyIvWord (w : Nat) : Prop := w = 4 ∨ w = 5 ∨ w = 6 ∨ w = 8 ∨ w = 9 ∨ w = 10

/-- What word `w` of KEY or IV reads when they hold `k` and `v`. -/
def stagedValue (k v : Bits80) (w : Nat) : Word := readReg (regAt w) { State.reset with key := k, iv := v }

/-- The write of that word. -/
def stagingWrite (k v : Bits80) (w : Nat) : HostOp := .memWrite (4 * w) 4 (stagedValue k v w)

theorem mem_stagingWrites_iff {k v : Bits80} {op : HostOp} :
    op ∈ keyWrites k ++ ivWrites v ↔ ∃ w, KeyIvWord w ∧ stagingWrite k v w = op := by
  have hwrites : keyWrites k ++ ivWrites v = [4, 5, 6, 8, 9, 10].map (stagingWrite k v) := rfl
  rw [hwrites, List.mem_map]
  simp only [List.mem_cons, List.not_mem_nil, or_false]

variable {k v : Bits80} {s t : State} {w : Nat}

/-- The write of a word of KEY or IV leaves it reading the value written. -/
theorem readReg_of_stagingWrite (hw : KeyIvWord w) (h : writeReg (regAt w) (stagedValue k v w) s = .next t) :
    readReg (regAt w) t = stagedValue k v w := by
  have hsplit : (w = 4 ∨ w = 5 ∨ w = 8 ∨ w = 9 ∨ w = 13) ∨ (w = 6 ∨ w = 10) := by omega
  obtain hfull | hhalf := hsplit
  · exact readReg_of_writeReg_full hfull h
  · rw [readReg_of_writeReg_half hhalf h]
    obtain rfl | rfl := hhalf <;> exact stagedWord2_and_mask _

/-- The write of a word of KEY or IV changes these registers alone. -/
theorem writeReg_keyIv (hw : KeyIvWord w) (x : Word) (s : State) :
    ∃ k v, writeReg (regAt w) x s = .next { s with key := k, iv := v } := by
  obtain rfl | rfl | rfl | rfl | rfl | rfl := hw <;> exact ⟨_, _, rfl⟩

theorem regAt_keyIv_ne_cmd (hw : KeyIvWord w) : regAt w ≠ .cmd := fun h => by
  have hzero := regAt_eq_cmd_iff.1 h
  omega

/-- Outside SETUP taking a host step draws nothing. -/
theorem takeHostOp_idle (hp : s.phase ≠ .setup) (rest : List HostOp) :
    takeHostOp rest s = { s with host := rest, gap := none } := by
  rw [takeHostOp, if_neg hp]

/-- Outside SETUP it is the host's turn. -/
theorem hostTurn_idle (hp : s.phase ≠ .setup) {op : HostOp} {rest : List HostOp} (hhost : s.host = op :: rest) :
    HostTurn s op rest :=
  ⟨hhost, Bool.eq_false_iff.2 fun hfirst => hp (sequencerFirst_iff.1 hfirst).1⟩

/-- One staging write as a step outside SETUP: its word then reads its value, and the other words what they read
before. -/
theorem step_stagingWrite (hp : s.phase ≠ .setup) (hr : s.resetHeld = false) (hw : KeyIvWord w) {rest : List HostOp}
    (hhost : s.host = stagingWrite k v w :: rest) :
    ∃ k' v' t, step s = .next t ∧ t = { s with key := k', iv := v', host := rest, gap := none } ∧
      readReg (regAt w) t = stagedValue k v w ∧
      ∀ w', KeyIvWord w' → w' ≠ w → readReg (regAt w') t = readReg (regAt w') s := by
  obtain ⟨k', v', hwrite⟩ := writeReg_keyIv hw (stagedValue k v w) (takeHostOp rest s)
  have htaken : SameStaging s (takeHostOp rest s) := ⟨rfl, rfl, rfl⟩
  refine ⟨k', v', _, (step_of_hostTurn_write (by omega) hr (hostTurn_idle hp hhost)).trans hwrite, ?_,
    readReg_of_stagingWrite hw hwrite, fun w' hw' hne => ?_⟩
  · rw [takeHostOp_idle hp]
  · have hstaging : StagingWord w' := by omega
    have hreg : regAt w ≠ regAt w' := fun h => hne (eq_of_regAt_eq (regAt_staging_ne_reserved hstaging) h).symm
    exact (readReg_of_writeReg_other (regAt_keyIv_ne_cmd hw) hreg hwrite).trans (htaken.readReg_eq hstaging)

/-- Staging writes in any order: each word written, or holding its value already, holds it at the end. -/
theorem run_stagingWrites {writes rest : List HostOp}
    (hwrites : ∀ op ∈ writes, ∃ w, KeyIvWord w ∧ stagingWrite k v w = op)
    (hp : s.phase ≠ .setup) (hr : s.resetHeld = false) (hhost : s.host = writes ++ rest) :
    ∃ (k' v' : Bits80) (gap : Option Nat) (t : State), Sys2Proof.core.run writes.length s = .next t ∧
      t = { s with key := k', iv := v', host := rest, gap := gap } ∧
      ∀ w, KeyIvWord w → stagingWrite k v w ∈ writes ∨ readReg (regAt w) s = stagedValue k v w →
        readReg (regAt w) t = stagedValue k v w := by
  induction writes generalizing s with
  | nil =>
    have hrest : s.host = rest := hhost
    exact ⟨s.key, s.iv, s.gap, s, rfl, hrest ▸ rfl, fun w _ h => by simpa using h⟩
  | cons op writes ih =>
    obtain ⟨w, hw, rfl⟩ := hwrites op List.mem_cons_self
    obtain ⟨k₁, v₁, u, hstep, rfl, hword, hother⟩ :=
      step_stagingWrite (rest := writes ++ rest) hp hr hw hhost
    obtain ⟨k', v', gap, t, hrun, rfl, hall⟩ :=
      ih (s := { s with key := k₁, iv := v₁, host := writes ++ rest, gap := none })
        (fun op hop => hwrites op (List.mem_cons_of_mem _ hop)) hp hr rfl
    refine ⟨k', v', gap, _, (run_succ_of_step hstep _).trans hrun, rfl, fun w' hw' h => hall w' hw' ?_⟩
    by_cases hsame : w' = w
    · exact .inr (hsame ▸ hword)
    · rw [hother w' hw' hsame]
      refine h.imp_left fun hmem => (List.mem_cons.1 hmem).resolve_left fun heq => hsame ?_
      simpa [stagingWrite] using (HostOp.memWrite.inj heq).1

/-- The six writes stage the key and the IV, whatever their order (R66, R263). -/
theorem run_staging {writes rest : List HostOp} (hperm : writes.Perm (keyWrites k ++ ivWrites v))
    (hp : s.phase ≠ .setup) (hr : s.resetHeld = false) (hhost : s.host = writes ++ rest) :
    ∃ gap, Sys2Proof.core.run 6 s = .next { s with key := k, iv := v, host := rest, gap := gap } := by
  have hlength : writes.length = 6 := hperm.length_eq
  obtain ⟨k', v', gap, t, hrun, rfl, hall⟩ :=
    run_stagingWrites (fun op hop => mem_stagingWrites_iff.1 (hperm.mem_iff.1 hop)) hp hr hhost
  have hword (w : Nat) (hw : KeyIvWord w) := hall w hw (.inl (hperm.mem_iff.2 (mem_stagingWrites_iff.2 ⟨w, hw, rfl⟩)))
  obtain rfl : k' = k := stagedWords_ext (hword 4 (by decide)) (hword 5 (by decide)) (hword 6 (by decide))
  obtain rfl : v' = v := stagedWords_ext (hword 8 (by decide)) (hword 9 (by decide)) (hword 10 (by decide))
  exact ⟨gap, hlength ▸ hrun⟩

/-! ### Boot and rekeying (70_reset_and_hazards.md R263, R264) -/

/-- From the load step, warm-up with no host step waiting, in a build of any number of clocks (R154, R155). -/
theorem run_loadEngine (hhost : s.host = []) :
    Sys2Proof.core.run s.config.warmup (loadEngine s) = .next { loadEngine s with
      cells := fwd^[s.config.warmup] (load s.key s.iv), wcnt := s.config.warmup, phase := .ready } := by
  cases hwarmup : s.config.warmup with
  | zero =>
    have hready : (loadEngine s).phase = .ready := if_pos hwarmup
    rw [← hready]
    rfl
  | succ n =>
    have hsetup : (loadEngine s).phase = .setup := if_neg (by omega)
    rw [← hwarmup]
    exact run_warmup_all hsetup hhost (Nat.zero_add _) (by omega)

/-- The host's turn at the word of INIT, outside SETUP: the load step. -/
theorem step_init (hp : s.phase ≠ .setup) (hr : s.resetHeld = false) {rest : List HostOp}
    (hhost : s.host = .memWrite 0 4 0x00505001#32 :: rest) : step s = .next (loadEngine (takeHostOp rest s)) := by
  have hdecode : decode 0x00505001#32 = .instr (.init 80 80) := by decide
  rw [step_of_hostTurn_cmd hr (hostTurn_idle hp hhost), writeCmd_of_decode hdecode]
  exact exec_init_of_lengthsOk (s := takeHostOp rest s) hp ⟨rfl, rfl⟩

/-- INIT and its warm-up, as the host's last step outside SETUP. -/
theorem run_init (hp : s.phase ≠ .setup) (hr : s.resetHeld = false)
    (hhost : s.host = [.memWrite 0 4 0x00505001#32]) :
    Sys2Proof.core.run (s.config.warmup + 1) s = .next { s with
      cells := fwd^[s.config.warmup] (load s.key s.iv), phase := .ready, wcnt := s.config.warmup,
      ksData := 0, ksCount := 0, dataOut := 0, err := .none, host := [], gap := none } := by
  have hload := step_init hp hr hhost
  rw [takeHostOp_idle hp] at hload
  rw [run_succ_of_step hload]
  exact run_loadEngine (s := { s with host := [], gap := none }) rfl

/-- Settles O55: the staging writes, then INIT and its warm-up. -/
theorem bootReachesTheWarmedEngine : Obligations.BootReachesTheWarmedEngine := by
  intro s k v writes hp hr hperm hhost
  obtain ⟨gap, hstaged⟩ := run_staging hperm hp hr hhost
  have hsplit : 7 + s.config.warmup = 6 + (s.config.warmup + 1) := by omega
  rw [hsplit, run_add_of_run hstaged]
  exact ⟨_, run_init hp hr rfl, rfl⟩

end Sys2Proof.Machine
